-- ==== Sys2Proof/Word.lean ====
section
/-! DEFINITION. The word and byte types (00_scope.md R6): every value of the GCE is a 64-bit unsigned word. -/

namespace Sys2Proof

/-- A register, operand or result of the GCE (R6): bit 0 is the least significant bit. -/
abbrev Word := BitVec 64

/-- One byte of the host's view of the window (20_memory.md R55). -/
abbrev Byte := BitVec 8

end Sys2Proof
end

