-- ==== Sys2Proof/Syntax.lean ====
section
/-! DEFINITION. The commands of the GCE: one constructor per row of the opcode map (30_encoding.md R72). -/

namespace Sys2Proof

/-- The six commands. A command word has no operand field (R71): every operand comes from a latch. -/
inductive Instr where
  /-- No operation (R95). -/
  | nop
  /-- Reverse the bit order of OPERAND (R101). -/
  | rev
  /-- The Barrett constant of POLY (R110). -/
  | mu
  /-- The fold key of exponent OPERAND for POLY (R120). -/
  | key
  /-- The reciprocal polynomial of POLY (R130). -/
  | recip
  /-- The whole constant set of POLY (R140). -/
  | cset
  deriving DecidableEq, Repr

end Sys2Proof
end

