-- ==== Sys2Proof/Assembly.lean ====
section
/-! DEFINITION. The host's side of the GCE as data: register names, bus accesses, host statements, and which agent moves
(30_encoding.md R76, R77; 10_state.md R21, R22). -/

namespace Sys2Proof

/-- The registers of the window (10_state.md R22). -/
inductive Reg where
  | cmd | status | poly | operand | result | muR | recipR
  /-- KEYR[i]. -/
  | keyr (i : Fin 16)
  /-- EXPR[i]. -/
  | expr (i : Fin 16)
  deriving DecidableEq, Repr

/-- The two kinds of bus access (20_memory.md R51). -/
inductive AccessKind where
  | read | write
  deriving DecidableEq, Repr

/-- One bus access of `n` bytes at window offset `off` (00_scope.md R11): BusRead and BusWrite. The data of a write is the
64-bit data of the bus port (decision D2). A write of another width never reaches a register (R52), so its data is not
looked at. -/
inductive Access where
  | read (off n : Nat)
  | write (off n : Nat) (data : Word)
  deriving DecidableEq, Repr

/-- Where a host statement points: a register by name, or a raw offset `@0x…` (R76). -/
inductive Loc where
  | reg (r : Reg)
  | raw (off : Nat)
  deriving DecidableEq, Repr

/-- The value of a `WR`: a literal, or host temporary number `i` (R76; program P3 of 95_test_vectors.md moves a temporary). -/
inductive Value where
  | lit (v : Word)
  | temp (i : Nat)
  deriving DecidableEq, Repr

/-- The host statements of R76. `WR` and `RD` are `wr 8` and `rd 8`. A `rd` and a finished `poll` append one temporary, so a
temporary is named by its number in that order. -/
inductive Stmt where
  | wr (n : Nat) (loc : Loc) (v : Value)
  | rd (n : Nat) (loc : Loc)
  | poll (r : Reg) (mask val : Word)
  deriving DecidableEq, Repr

/-- The labels under which the source prints a constant set (R79): the line `k_<exponent>` of key `i`, `mu`, `reciprocal`. -/
inductive OutputLabel where
  | k (i : Fin 16)
  | mu
  | reciprocal
  deriving DecidableEq, Repr

/-- Who makes the next transition: the two agents of R21, or the reset input of 70_reset_and_hazards.md R170. -/
inductive Turn where
  | host | engine | reset
  deriving DecidableEq, Repr

end Sys2Proof
end

