-- ==== Sys2Proof/WellFormed.lean ====
section
/-! DEFINITION. What the model calls well formed. A command has no operand field (30_encoding.md R71), so every `Instr` is well
formed; a host program is well formed when it uses a temporary only after the statement that wrote it (R76). -/

namespace Sys2Proof

/-- A command has no field whose value could be out of range (R71, R75). -/
def Instr.wellFormed : Instr → Bool
  | .nop | .rev | .mu | .key | .recip | .cset => true

/-- With `temps` temporaries written so far, the value is defined. -/
def Value.wellFormed (temps : Nat) : Value → Bool
  | .lit _ => true
  | .temp i => decide (i < temps)

/-- With `temps` temporaries written so far, the statement reads only those. -/
def Stmt.wellFormed (temps : Nat) : Stmt → Bool
  | .wr _ _ v => v.wellFormed temps
  | .rd _ _ => true
  | .poll _ _ _ => true

/-- How many temporaries the statement writes. -/
def Stmt.temps : Stmt → Nat
  | .wr _ _ _ => 0
  | .rd _ _ => 1
  | .poll _ _ _ => 1

/-- A host program, started with `temps` temporaries written. -/
def programWellFormed : Nat → List Stmt → Bool
  | _, [] => true
  | temps, st :: rest => st.wellFormed temps && programWellFormed (temps + st.temps) rest

end Sys2Proof
end

