-- ==== Sys2Proof/Decode.lean ====
section
/-! DEFINITION. The command decoder (30_encoding.md R70 to R75) and its encoder. -/

namespace Sys2Proof

/-- Why a command word is illegal (R73, R74). -/
inductive IllegalWord where
  /-- RSVZ, bits 63:4, is not zero. -/
  | reservedBits
  /-- RSVZ is zero and OP is one of 0x6 to 0xF. -/
  | reservedOpcode
  deriving DecidableEq, Repr

/-- What the decoder answers: the command of a legal word, or that the word is illegal and why. -/
inductive Decoded where
  | command (i : Instr)
  | illegal (why : IllegalWord)
  deriving DecidableEq, Repr

/-- The OP field of a command word, bits 3:0 (R70). -/
def opField (w : Word) : BitVec 4 := w.extractLsb' 0 4

/-- The RSVZ field of a command word, bits 63:4 (R70). -/
def rsvzField (w : Word) : BitVec 60 := w.extractLsb' 4 60

/-- The opcode map of R72; OP 0x6 to 0xF are reserved (R74). -/
def decodeOp (op : BitVec 4) : Option Instr :=
  match op.toNat with
  | 0x0 => some .nop
  | 0x1 => some .rev
  | 0x2 => some .mu
  | 0x3 => some .key
  | 0x4 => some .recip
  | 0x5 => some .cset
  | _ => none

/-- R73: total on all 2^64 words; RSVZ is tested before OP. -/
def decode (w : Word) : Decoded :=
  if rsvzField w = 0 then
    match decodeOp (opField w) with
    | some i => .command i
    | none => .illegal .reservedOpcode
  else .illegal .reservedBits

/-- The OP value of a command (R72). -/
def Instr.opcode : Instr → BitVec 4
  | .nop => 0x0
  | .rev => 0x1
  | .mu => 0x2
  | .key => 0x3
  | .recip => 0x4
  | .cset => 0x5

/-- The command word: RSVZ zero, OP in bits 3:0 (R70, R72). -/
def encode (i : Instr) : Word := (0 : BitVec 60) ++ i.opcode

/-- The eight bytes of a word in the host's view: byte k holds bits 8k+7:8k (20_memory.md R55). -/
def bytesOfWord (w : Word) : List Byte := (List.range 8).map fun k => w.extractLsb' (8 * k) 8

/-- The number that bytes at rising addresses stand for, little-endian (R55). -/
def natOfBytes : List Byte → Nat
  | [] => 0
  | b :: rest => b.toNat + 256 * natOfBytes rest

/-- The decoder on the bytes of one write to CMD. A command word is exactly 8 bytes (R70): any other number of bytes is no
command word. -/
def decodeBytes (bs : List Byte) : Option Decoded :=
  if bs.length = 8 then some (decode (BitVec.ofNat 64 (natOfBytes bs))) else none

/-- The command word as the host lays it out in bytes (R55, R70). -/
def encodeBytes (i : Instr) : List Byte := bytesOfWord (encode i)

/-- The command in the table's word `w` of `nbits` bits: one 64-bit word, bits above `nbits` zero, laid out in bytes and given
to the decoder. A word with a bit above bit 63 is no command word. -/
def decodeTableWord (nbits w : Nat) : Option Instr :=
  if w % 2 ^ nbits < 2 ^ 64 then
    match decodeBytes (bytesOfWord (BitVec.ofNat 64 (w % 2 ^ nbits))) with
    | some (.command i) => some i
    | some (.illegal _) => none
    | none => none
  else none

end Sys2Proof
end

