-- ==== Sys2Proof/Config.lean ====
section
/-! DEFINITION. The implementation parameters of 00_scope.md R5. IMPL_STYLE and LATENCY have no value here: the first has no
architectural effect (R114, R126), the second is any finite number of host accesses, which the schedule of State shows (R99). -/

namespace Sys2Proof.Config

/-- MU_STEPS of R5: the iterations of the mu division. -/
def muSteps : Nat := 64

/-- WINDOW of R5: the size of the register window in bytes. -/
def window : Nat := 0x200

/-- OPEN (R5, decision D4): which multiple of the window's size the platform places the window at. Nothing in the model
knows its value. -/
opaque gceBaseIndex : Nat

/-- GCE_BASE of R5: the bus address of window offset 0, a multiple of 0x200. -/
def gceBase : Nat := window * gceBaseIndex

end Sys2Proof.Config
end

