-- ==== Sys2Proof/Machine/State.lean ====
section
/-! DEFINITION. The state of the GCE (10_state.md) with its environment (the host's program, its temporaries, the order of turns) as
plain data, the reasons a step can stop, and the state after reset (70_reset_and_hazards.md R171). -/

namespace Sys2Proof.Machine

/-- The STATUS fields that hold state (10_state.md R24). Bits 7:5 and 63:12 are hardwired zero (R31) and hold none. -/
structure Status where
  /-- Bit 0: a command is in flight (R25). -/
  busy : Bool
  /-- Bit 1, W1C: the last accepted command has completed (R26). -/
  done : Bool
  /-- Bit 2, W1C, sticky (R27). -/
  illegal : Bool
  /-- Bit 3, W1C, sticky (R28). -/
  overrun : Bool
  /-- Bit 4, W1C, sticky (R29). -/
  accErr : Bool
  /-- Bits 11:8: the opcode of the last accepted command (R30). -/
  lastop : BitVec 4
  deriving DecidableEq, Repr

/-- What a bus read of `bytes` bytes returns, zero-extended to the 64 bits of a host temporary (30_encoding.md R76). -/
structure ReadReply where
  bytes : Nat
  data : Word
  deriving DecidableEq, Repr

/-- The error causes of 60_exceptions.md R151. -/
inductive ErrorCause where
  | illegal | overrun | accErr
  deriving DecidableEq, Repr

/-- Why a step stops. The GCE never traps (R150): no command and no access ends here. -/
inductive Fault where
  /-- Raised by the engine's turn when BUSY = 1 and lat.OP is in 0x6 to 0xF. R93 says that this cannot be: a stuck state, safe
  (the model goes no further where the spec says nothing), and unreachable by the invariant `Inv`. -/
  | latchHoldsNoCommand (op : BitVec 4)
  deriving DecidableEq, Repr

/-- Why an instruction has no meaning. Every command of the table has one: nothing raises this. -/
inductive Refusal where
  /-- An arm of exec without a meaning; safe. No arm uses it. -/
  | notModelled (mnemonic : String)
  deriving DecidableEq, Repr

/-- The state of the GCE, and after it the environment that drives it. CMD and EXPR hold no state (R23, R38). -/
structure State where
  /-- STATUS (R24). -/
  status : Status
  /-- POLY (R32). -/
  poly : Word
  /-- OPERAND (R33). -/
  operand : Word
  /-- RESULT (R34). -/
  result : Word
  /-- MU_R (R35). -/
  muR : Word
  /-- RECIP_R (R35). -/
  recipR : Word
  /-- KEYR[0..15] (R36). -/
  keyr : Vector Word 16
  /-- lat.OP (R37). -/
  latOp : BitVec 4
  /-- lat.POLY (R37). -/
  latPoly : Word
  /-- lat.OPND (R37). -/
  latOpnd : Word
  /-- The model's own: the host statements still to perform, first one first (30_encoding.md R76). -/
  program : List Stmt
  /-- The model's own: the host temporaries, oldest first (R76). -/
  replies : List ReadReply
  /-- The model's own: who moves next, first turn first; when it is empty the engine moves if it can, else the host (R99). -/
  schedule : List Turn
  deriving DecidableEq, Repr

/-- STATUS after reset (R171). -/
def Status.reset : Status :=
  { busy := false, done := false, illegal := false, overrun := false, accErr := false, lastop := 0 }

/-- Every register, latch and flag at the value of R171; no host program, no temporary and no turn is given. -/
def State.reset : State :=
  { status := Status.reset, poly := 0, operand := 0, result := 0, muR := 0, recipR := 0, keyr := Vector.replicate 16 0,
    latOp := 0, latPoly := 0, latOpnd := 0, program := [], replies := [], schedule := [] }

end Sys2Proof.Machine
end

