-- ==== Sys2Proof/Machine/Flags.lean ====
section
/-! DEFINITION. STATUS as a word, and the transitions of its flags (10_state.md R24 to R31, 40_command_control.md R96,
60_exceptions.md R151). -/

namespace Sys2Proof.Machine

/-- One flag at bit `k` of a word that is zero elsewhere. -/
def flagBit (b : Bool) (k : Nat) : Word := (BitVec.ofBool b).setWidth 64 <<< k

/-- STATUS as a read returns it: the layout of R24, with bits 7:5 and 63:12 zero (R31). -/
def Status.word (st : Status) : Word :=
  flagBit st.busy 0 ||| flagBit st.done 1 ||| flagBit st.illegal 2 ||| flagBit st.overrun 3 ||| flagBit st.accErr 4
    ||| st.lastop.setWidth 64 <<< 8

/-- The flags a STATUS write of `v` leaves (R96): a W1C bit written as 1 is cleared; every other bit of `v` is ignored. -/
def Status.clearOnes (v : Word) (st : Status) : Status :=
  { st with
    done := st.done && !v.getLsbD 1
    illegal := st.illegal && !v.getLsbD 2
    overrun := st.overrun && !v.getLsbD 3
    accErr := st.accErr && !v.getLsbD 4 }

/-- `flag <NAME>` of 00_scope.md R11: set the sticky flag of an error cause. -/
def Status.flag (c : ErrorCause) (st : Status) : Status :=
  match c with
  | .illegal => { st with illegal := true }
  | .overrun => { st with overrun := true }
  | .accErr => { st with accErr := true }

/-- The code of an error cause is its STATUS bit number (R151). -/
def ErrorCause.code : ErrorCause → Nat
  | .illegal => 2
  | .overrun => 3
  | .accErr => 4

/-- The flags at an accept (40_command_control.md R91). -/
def Status.accept (op : BitVec 4) (st : Status) : Status :=
  { st with lastop := op, done := false, busy := true }

/-- The flags at a completion (R93). -/
def Status.complete (st : Status) : Status := { st with busy := false, done := true }

/-- Recording an error takes the place of taking an exception (60_exceptions.md R150, R156): the flag, and nothing else. -/
def State.flag (c : ErrorCause) (s : State) : State := { s with status := s.status.flag c }

end Sys2Proof.Machine
end

