-- ==== Sys2Proof/Machine/Operands.lean ====
section
/-! DEFINITION. The register window: where each register stands, what reading it gives, which accesses are legal, and the host's byte
view (10_state.md R22 to R38; 20_memory.md R51, R55). -/

namespace Sys2Proof.Machine

/-- The exponent table EXPR, kept verbatim (10_state.md R38, 45_constant_set.md R142). -/
def exponents : Vector Word 16 :=
  #v[128, 192, 256, 320, 384, 448, 512, 576, 640, 704, 768, 832, 896, 960, 1024, 1088]

/-- The offset of a register from GCE_BASE (R22). -/
def regOffset : Reg → Nat
  | .cmd => 0x000
  | .status => 0x008
  | .poly => 0x010
  | .operand => 0x018
  | .result => 0x020
  | .muR => 0x028
  | .recipR => 0x030
  | .keyr i => 0x080 + 8 * i.val
  | .expr i => 0x100 + 8 * i.val

/-- The register whose first byte is at an offset; offsets not listed in R22 are reserved. -/
def regAt (off : Nat) : Option Reg :=
  if off = 0x000 then some .cmd
  else if off = 0x008 then some .status
  else if off = 0x010 then some .poly
  else if off = 0x018 then some .operand
  else if off = 0x020 then some .result
  else if off = 0x028 then some .muR
  else if off = 0x030 then some .recipR
  else if 0x080 ≤ off ∧ off < 0x100 ∧ off % 8 = 0 then some (.keyr (Fin.ofNat 16 ((off - 0x080) / 8)))
  else if 0x100 ≤ off ∧ off < 0x180 ∧ off % 8 = 0 then some (.expr (Fin.ofNat 16 ((off - 0x100) / 8)))
  else none

/-- The access types of R22: only these four registers take writes (20_memory.md R51). -/
def regWritable : Reg → Bool
  | .cmd | .status | .poly | .operand => true
  | .result | .muR | .recipR | .keyr _ | .expr _ => false

/-- What a read of a register returns. CMD reads 0 (R23); the reserved bits of STATUS read 0 (R31); EXPR is hardwired (R38). -/
def readReg (r : Reg) (s : State) : Word :=
  match r with
  | .cmd => 0
  | .status => s.status.word
  | .poly => s.poly
  | .operand => s.operand
  | .result => s.result
  | .muR => s.muR
  | .recipR => s.recipR
  | .keyr i => s.keyr[i]
  | .expr i => exponents[i]

/-- The register that a legal access reaches, or none where the access is an access error (20_memory.md R51): 8 bytes, aligned,
inside the window, at a register, and for a write at a writable one. -/
def legalReg (kind : AccessKind) (off n : Nat) : Option Reg :=
  if n = 8 ∧ off % 8 = 0 ∧ off < Config.window then
    match kind, regAt off with
    | .read, some r => some r
    | .write, some r => if regWritable r then some r else none
    | .read, none => none
    | .write, none => none
  else none

/-- The host's byte view (R55): byte k at address GCE_BASE + off + k holds bits 8k+7:8k of the register at `off`. No byte stands
at an address outside the window or at a reserved offset. -/
def windowByte (s : State) (a : Nat) : Option Byte :=
  if Config.gceBase ≤ a ∧ a < Config.gceBase + Config.window then
    match regAt (8 * ((a - Config.gceBase) / 8)) with
    | some r => some ((readReg r s).extractLsb' (8 * ((a - Config.gceBase) % 8)) 8)
    | none => none
  else none

/-- Byte k of a read's reply (R55). -/
def ReadReply.byte (r : ReadReply) (k : Nat) : Byte := r.data.extractLsb' (8 * k) 8

/-- The offset that a host statement's location names (30_encoding.md R76). -/
def locOffset : Loc → Nat
  | .reg r => regOffset r
  | .raw off => off

/-- The register that holds the value of a printed line (R79). -/
def labelReg : OutputLabel → Reg
  | .k i => .keyr i
  | .mu => .muR
  | .reciprocal => .recipR

/-- The 18 printed lines in their order: the 16 keys by rising exponent, then mu, then the reciprocal (R79). -/
def outputLabels : List OutputLabel := (List.finRange 16).map .k ++ [.mu, .reciprocal]

/-- The value of a host temporary; one that no statement has written is 0 (DESIGN CHOICE, log entry 7). -/
def tempValue (replies : List ReadReply) (i : Nat) : Word :=
  match replies[i]? with
  | some r => r.data
  | none => 0

/-- The data a `WR` puts on the bus (R76). -/
def valueOf (replies : List ReadReply) : Value → Word
  | .lit v => v
  | .temp i => tempValue replies i

end Sys2Proof.Machine
end

