-- ==== Sys2Proof/Machine/Ops.lean ====
section
/-! DEFINITION. The atomic transitions that the agents are made of: accept, illegal word, overrun, the STATUS, POLY and OPERAND
writes, bus accesses, and the frame of a completion (40_command_control.md, 20_memory.md). -/

namespace Sys2Proof.Machine

/-- Accept (R91): the word's OP and the operands go to the latches; LASTOP, DONE and BUSY change; nothing else does. -/
def accept (w : Word) (s : State) : State :=
  { s with
    latOp := opField w
    latPoly := s.poly
    latOpnd := s.operand
    status := s.status.accept (opField w) }

/-- Illegal command word (R92): ILLEGAL is set and DONE cleared; nothing is computed. -/
def illegalCommand (s : State) : State :=
  { s with status := { s.status.flag .illegal with done := false } }

/-- A legal write to CMD (R90): overrun while BUSY, the word not decoded (R94); else the decoder chooses R91 or R92. -/
def cmdWrite (w : Word) (s : State) : State :=
  if s.status.busy then s.flag .overrun
  else
    match decode w with
    | .command _ => accept w s
    | .illegal _ => illegalCommand s

/-- A legal write to STATUS (R96). -/
def statusWrite (v : Word) (s : State) : State := { s with status := s.status.clearOnes v }

/-- A write of an 8-byte word to a register (20_memory.md R54). A write to a read-only register is an access error (R22). -/
def writeReg (r : Reg) (v : Word) (s : State) : State :=
  match r with
  | .cmd => cmdWrite v s
  | .status => statusWrite v s
  | .poly => { s with poly := v }
  | .operand => { s with operand := v }
  | .result | .muR | .recipR | .keyr _ | .expr _ => s.flag .accErr

/-- BusWrite (R52, R54): an illegal write is dropped with ACCERR. -/
def busWrite (off n : Nat) (v : Word) (s : State) : State :=
  match legalReg .write off n with
  | some r => writeReg r v s
  | none => s.flag .accErr

/-- BusRead (R52, R53): a legal read changes nothing; an illegal one returns zeros and sets ACCERR. -/
def busRead (off n : Nat) (s : State) : State × ReadReply :=
  match legalReg .read off n with
  | some r => (s, { bytes := 8, data := readReg r s })
  | none => (s.flag .accErr, { bytes := n, data := 0 })

/-- One host access (00_scope.md R12), with the reply of a read. -/
def busAccess (a : Access) (s : State) : State × Option ReadReply :=
  match a with
  | .read off n => ((busRead off n s).1, some (busRead off n s).2)
  | .write off n v => (busWrite off n v s, none)

/-- The end of every completion (R93): BUSY falls and DONE rises; POLY, OPERAND, LASTOP, the error flags and the latches stay. -/
def complete (s : State) : State := { s with status := s.status.complete }

/-- The completion of a command with a single result (R93, R179): RESULT, then the frame. -/
def completeWith (v : Word) (s : State) : State := complete { s with result := v }

/-- Reset (70_reset_and_hazards.md R170, R171): every register, latch and flag takes its reset value, and a command in flight is
abandoned. The host's program and temporaries and the turns to come are no part of the GCE and stay. -/
def resetTurn (s : State) : State :=
  { State.reset with program := s.program, replies := s.replies, schedule := s.schedule }

end Sys2Proof.Machine
end

