-- ==== Sys2Proof/Machine/BitReversal.lean ====
section
/-! DEFINITION. The bit-reversal circuit and REV (41_bit_reversal.md R100, R101). -/

namespace Sys2Proof.Machine

/-- Rev64 (R100): bit i of the result is bit 63 - i of `v`. -/
def rev64 (v : Word) : Word := BitVec.ofFnLE fun i : Fin 64 => v.getLsbD (63 - i.val)

/-- REV (R101): RESULT is the reversed lat.OPND. -/
def execRev (s : State) : Host.Outcome State Fault Refusal := .next (completeWith (rev64 s.latOpnd) s)

end Sys2Proof.Machine
end

