-- ==== Sys2Proof/Machine/BarrettMu.lean ====
section
/-! DEFINITION. The Barrett-mu unit and MU (42_barrett_mu.md R110, R111). -/

namespace Sys2Proof.Machine

/-- `k` more iterations of the division of R111, from `high`, `low` and the quotient `q`, in the order the rule gives: shift `q`;
if `high`, set its low bit and XOR `p` into `low`; take the new `high` from `low` before `low` is shifted. -/
def muDivide (p : Word) : Nat → Bool → Word → Word → Word
  | 0, _, _, q => q
  | k + 1, high, low, q =>
    let q' := if high then (q <<< 1) ||| 1 else q <<< 1
    let low' := if high then low ^^^ p else low
    muDivide p k (low'.getLsbD 63) (low' <<< 1) q'

/-- MuGen (R111): 64 iterations from high = 1, low = 0, q = 0, then Rev64 of the quotient. -/
def muGen (p : Word) : Word := rev64 (muDivide p Config.muSteps true 0 0)

/-- MU (R110): RESULT is MuGen of lat.POLY. -/
def execMu (s : State) : Host.Outcome State Fault Refusal := .next (completeWith (muGen s.latPoly) s)

end Sys2Proof.Machine
end

