-- ==== Sys2Proof/Machine/CommandControl.lean ====
section
/-! DEFINITION. NOP (40_command_control.md R95). -/

namespace Sys2Proof.Machine

/-- NOP (R95): no register is written at completion but BUSY and DONE. -/
def execNop (s : State) : Host.Outcome State Fault Refusal := .next (complete s)

end Sys2Proof.Machine
end

