-- ==== Sys2Proof/Machine/KeyReducer.lean ====
section
/-! DEFINITION. The exponent-modulo-polynomial reducer and KEY (43_key_reducer.md R120 to R126). -/

namespace Sys2Proof.Machine

/-- MulXMod (R121): multiply by x and reduce; `mask` is all ones when the bit shifted out is 1. -/
def mulXMod (n p : Word) : Word :=
  (n <<< 1) ^^^ ((0 - (BitVec.ofBool (n.getLsbD 63)).setWidth 64) &&& p)

/-- The start value of R122: bit 63 set, x^63. -/
def keyStart : Word := 0x8000000000000000

/-- KeyGen (R122), word for word: 0 for e <= 64, else Rev64 of e - 64 MulXMod steps from x^63. -/
def keyGen (e p : Word) : Word :=
  if e ≤ 64 then 0 else rev64 ((fun n => mulXMod n p)^[e.toNat - 64] keyStart)

/-- The product of two words as polynomials modulo x^64 + p, over bits k-1 to 0 of `b` (R7, R8). -/
def mulModBits (a b p : Word) : Nat → Word → Word
  | 0, acc => acc
  | k + 1, acc => mulModBits a b p k (mulXMod acc p ^^^ (if b.getLsbD k then a else 0))

/-- a(x) * b(x) mod x^64 + p. -/
def mulMod (a b p : Word) : Word := mulModBits a b p 64 0

/-- x^k mod x^64 + p by square and multiply (the method R126 names), for k below 2^fuel. -/
def xPowMod (p : Word) : Nat → Nat → Word
  | 0, _ => 1
  | fuel + 1, k =>
    if k = 0 then 1
    else
      if k % 2 = 1 then mulXMod (mulMod (xPowMod p fuel (k / 2)) (xPowMod p fuel (k / 2)) p) p
      else mulMod (xPowMod p fuel (k / 2)) (xPowMod p fuel (k / 2)) p

/-- KeyGen by the method of R126 that can be run for every exponent. `Laws.keyGenFast_eq_keyGen` proves that it is `keyGen`, the
loop of R122, for every exponent and polynomial. -/
def keyGenFast (e p : Word) : Word := if e ≤ 64 then 0 else rev64 (xPowMod p 64 (e.toNat - 1))

/-- KEY (R120): RESULT is KeyGen of lat.OPND and lat.POLY. -/
def execKey (s : State) : Host.Outcome State Fault Refusal := .next (completeWith (keyGenFast s.latOpnd s.latPoly) s)

end Sys2Proof.Machine
end

