-- ==== Sys2Proof/Machine/Reciprocal.lean ====
section
/-! DEFINITION. The reciprocal-polynomial engine and RECIP (44_reciprocal.md R130, R131). -/

namespace Sys2Proof.Machine

/-- RecipGen (R131): reverse the input, shift left by one, set bit 0. -/
def recipGen (p : Word) : Word := (rev64 p <<< 1) ||| 1

/-- RECIP (R130): RESULT is RecipGen of lat.POLY. -/
def execRecip (s : State) : Host.Outcome State Fault Refusal := .next (completeWith (recipGen s.latPoly) s)

end Sys2Proof.Machine
end

