-- ==== Sys2Proof/Machine/ConstantSet.lean ====
section
/-! DEFINITION. The constant-set sequencer and CSET (45_constant_set.md R140 to R142). -/

namespace Sys2Proof.Machine

/-- The 16 keys of R140: one for each exponent of the table, in its order. -/
def keySet (p : Word) : Vector Word 16 := Vector.ofFn fun i : Fin 16 => keyGen exponents[i] p

/-- CSET (R140): KEYR[0..15], MU_R and RECIP_R change together; RESULT does not. -/
def execCset (s : State) : Host.Outcome State Fault Refusal :=
  .next (complete { s with keyr := keySet s.latPoly, muR := muGen s.latPoly, recipR := recipGen s.latPoly })

end Sys2Proof.Machine
end

