-- ==== Sys2Proof/Machine/Dispatch.lean ====
section
/-! DEFINITION. The case arms of a completion (40_command_control.md R93, R98): one per command, none by default. -/

namespace Sys2Proof.Machine

def exec (i : Instr) (s : State) : Host.Outcome State Fault Refusal :=
  match i with
  | .nop => Sys2Proof.Machine.execNop s
  | .rev => Sys2Proof.Machine.execRev s
  | .mu => Sys2Proof.Machine.execMu s
  | .key => Sys2Proof.Machine.execKey s
  | .recip => Sys2Proof.Machine.execRecip s
  | .cset => Sys2Proof.Machine.execCset s

end Sys2Proof.Machine
end

