-- ==== Sys2Proof/Machine/HostAgent.lean ====
section
/-! DEFINITION. The host agent: its statements as bus accesses, one turn of it, and the pseudo-instructions (30_encoding.md R76 to
R78). -/

namespace Sys2Proof.Machine

/-- The bus access that a statement performs (R76, R77). A POLL performs its read once per turn. -/
def stmtAccess (replies : List ReadReply) : Stmt → Access
  | .wr n loc v => .write (locOffset loc) n (valueOf replies v)
  | .rd n loc => .read (locOffset loc) n
  | .poll r _ _ => .read (regOffset r) 8

/-- Whether the host goes on to the next statement after a reply: a POLL only when its exit test holds (R77). -/
def stmtLeaves (st : Stmt) (r : ReadReply) : Bool :=
  match st with
  | .wr _ _ _ => true
  | .rd _ _ => true
  | .poll _ mask val => decide (r.data &&& mask = val)

/-- The access the host performs at its next turn, if its program is not finished. -/
def hostAccess (s : State) : Option Access :=
  match s.program with
  | [] => none
  | st :: _ => some (stmtAccess s.replies st)

/-- The host after a statement's access: a write is done; a read's reply becomes a temporary and the statement is done, but a POLL
whose test fails stays and keeps no temporary. -/
def hostAdvance (st : Stmt) (rest : List Stmt) (reply : Option ReadReply) (t : State) : State :=
  match reply with
  | none => { t with program := rest }
  | some r => if stmtLeaves st r then { t with program := rest, replies := t.replies ++ [r] } else t

/-- One turn of the host: exactly one bus access (R21, R57), or nothing when its program is finished. -/
def hostTurn (s : State) : State :=
  match s.program with
  | [] => s
  | st :: rest =>
    hostAdvance st rest (busAccess (stmtAccess s.replies st) s).2 (busAccess (stmtAccess s.replies st) s).1

/-- The pseudo-instructions NOP, REV, MU, KEY, RECIP and CSET: `WR CMD, <word>` (R78). -/
def issueStmt (i : Instr) : Stmt := .wr 8 (.reg .cmd) (.lit (encode i))

/-- WAIT: `POLL STATUS, 0x1, 0x0` (R78). -/
def waitStmt : Stmt := .poll .status 0x1 0x0

/-- CLRSTAT: `WR STATUS, 0x1E` (R78). -/
def clrstatStmt : Stmt := .wr 8 (.reg .status) (.lit 0x1E)

/-- REVV v (R78). -/
def revvStmts (v : Word) : List Stmt := [.wr 8 (.reg .operand) (.lit v), issueStmt .rev, waitStmt]

/-- KEYE e (R78). -/
def keyeStmts (e : Word) : List Stmt := [.wr 8 (.reg .operand) (.lit e), issueStmt .key, waitStmt]

end Sys2Proof.Machine
end

