-- ==== Sys2Proof/Machine/Engine.lean ====
section
/-! DEFINITION. The engine agent's turn, which agent moves next, and how a command word comes to stand in the latches
(10_state.md R21, 40_command_control.md R93, R99). -/

namespace Sys2Proof.Machine

/-- The engine's turn (R93): enabled exactly when BUSY = 1, it runs the command named by lat.OP. While BUSY = 0 the engine has no
step and its turn changes nothing. -/
def engineTurn (s : State) : Host.Outcome State Fault Refusal :=
  if s.status.busy then
    match decodeOp s.latOp with
    | some i => exec i s
    | none => .fault (.latchHoldsNoCommand s.latOp)
  else .next s

/-- Who moves next: the schedule says; when it is empty, the engine if a command is in flight, else the host (R21, R99). -/
def nextTurn (s : State) : Turn :=
  match s.schedule with
  | t :: _ => t
  | [] => if s.status.busy then .engine else .host

/-- The state with the next turn taken off the schedule. -/
def dropTurn (s : State) : State := { s with schedule := s.schedule.tail }

/-- The turn of the agent `t`. -/
def takeTurn (t : Turn) (s : State) : Host.Outcome State Fault Refusal :=
  match t with
  | .host => .next (hostTurn s)
  | .engine => engineTurn s
  | .reset => .next (resetTurn s)

/-- A command word placed so that the very next step runs it: a legal word stands in the latches as its accept leaves it (R91),
with the engine to move; an illegal one stands as the host's next write to CMD, so that R90 handles it. -/
def placeWord (w : Word) (s : State) : State :=
  match decode w with
  | .command _ => { accept w s with schedule := .engine :: s.schedule }
  | .illegal _ =>
    { s with program := .wr 8 (.reg .cmd) (.lit w) :: s.program, schedule := .host :: s.schedule }

end Sys2Proof.Machine
end

