-- ==== Sys2Proof/Safety.lean ====
section
/-! DEFINITION. The terms that claims use: a safe run, the machine's invariant, and the reading of words as polynomials over GF(2)
(00_scope.md R7). -/

namespace Sys2Proof

open Machine

/-- A run of `n` steps that stops nowhere. -/
def SafeRun (n : Nat) (s : State) : Prop := ∃ t, core.run n s = .next t

/-- The constant-set registers as reset leaves them (70_reset_and_hazards.md R171). -/
def ResetSet (s : State) : Prop := s.muR = 0 ∧ s.recipR = 0 ∧ s.keyr = Vector.replicate 16 0

/-- The constant-set registers hold the constant set of `p` (45_constant_set.md R140). -/
def ConstantSetOf (p : Word) (s : State) : Prop := s.muR = muGen p ∧ s.recipR = recipGen p ∧ s.keyr = keySet p

/-- What holds in every state that a run from reset reaches. -/
structure Inv (s : State) : Prop where
  /-- BUSY = 1 implies DONE = 0 (10_state.md R42). -/
  busy_not_done : s.status.busy = true → s.status.done = false
  /-- lat.OP holds one of 0x0 to 0x5 (40_command_control.md R93). -/
  latch_command : s.latOp.toNat ≤ 5
  /-- LASTOP names the command in the latch: both are written at accept only (R30, R37). -/
  lastop_latch : s.status.lastop = s.latOp
  /-- The constant-set registers are those of reset or hold one whole constant set (R35, R36, R173). -/
  constant_set : ResetSet s ∨ ∃ p, ConstantSetOf p s

/-- A word as a polynomial over GF(2): bit i is the coefficient of x^i (R7). -/
noncomputable def toPoly (w : Word) : Polynomial (ZMod 2) :=
  ∑ i ∈ Finset.range 64, if w.getLsbD i then Polynomial.X ^ i else 0

/-- The polynomial P = x^64 + p that an operand stands for (R7). -/
noncomputable def genPoly (p : Word) : Polynomial (ZMod 2) := Polynomial.X ^ 64 + toPoly p

end Sys2Proof
end

