-- ==== Sys2Proof/Certificates/Slice0/Obligations.lean ====
section
/-! DEFINITION. The statements about the model, from the numbered rules of spec/. Each docstring names the rule it formalises. -/

open Sys2Proof Sys2Proof.Machine

/-! ## Encoding -/

/-- R73: a word is legal exactly when bits 63:4 are zero and bits 3:0 are at most 5; then its command is the row with OP = bits
3:0; exactly the six words 0x0 to 0x5 are legal; every other word is illegal. -/
def Obligations.DecodeLegalExactlySixWords : Prop :=
  ∀ w : Word,
    ((∃ i, decode w = .command i) ↔ (∀ k, 4 ≤ k → w.getLsbD k = false) ∧ w.toNat % 16 ≤ 5) ∧
    ((∃ i, decode w = .command i) ↔ w.toNat ≤ 5) ∧
    (∀ i, decode w = .command i → i.opcode.toNat = w.toNat % 16) ∧
    ((¬ ∃ i, decode w = .command i) → ∃ why, decode w = .illegal why)

/-- Decode and encode agree for every command, on words and on the bytes of a CMD write: a word or a list of bytes decodes to a
command exactly when it is that command's encoding (R70, R72, R55). -/
def Obligations.EncodeDecodeAgree : Prop :=
  ∀ i : Instr,
    (∀ w, decode w = .command i ↔ w = encode i) ∧ (∀ bs, decodeBytes bs = some (.command i) ↔ bs = encodeBytes i)

/-- The six command words of R72, written out. -/
def Obligations.TableWordsDecode : Prop :=
  decode 0b0000 = .command .nop ∧ decode 0b0001 = .command .rev ∧ decode 0b0010 = .command .mu ∧
  decode 0b0011 = .command .key ∧ decode 0b0100 = .command .recip ∧ decode 0b0101 = .command .cset ∧
  decodeTableWord 64 0x3 = some .key ∧ decodeBytes [0x05, 0, 0, 0, 0, 0, 0, 0] = some (.command .cset)

/-- R74: a nonzero RSVZ is reserved whatever the OP, and OP 0x6 to 0xF are reserved; nothing else is. -/
def Obligations.ReservedWordsByReason : Prop :=
  ∀ w : Word,
    (decode w = .illegal .reservedBits ↔ ∃ k, 4 ≤ k ∧ w.getLsbD k = true) ∧
    (decode w = .illegal .reservedOpcode ↔ 6 ≤ w.toNat ∧ w.toNat ≤ 15)

/-! ## The register window -/

/-- R51: the legal accesses, in the rule's own words. -/
def Obligations.LegalAccessExactly : Prop :=
  ∀ (kind : AccessKind) (off n : Nat),
    (legalReg kind off n).isSome = true ↔
      n = 8 ∧ off % 8 = 0 ∧ off < 0x200 ∧
      (off ∈ [0x000, 0x008, 0x010, 0x018, 0x020, 0x028, 0x030] ∨
        (∃ i, i ≤ 15 ∧ off = 0x080 + 8 * i) ∨ (∃ i, i ≤ 15 ∧ off = 0x100 + 8 * i)) ∧
      (kind = .read ∨ off ∈ [0x000, 0x008, 0x010, 0x018])

/-- R52: an access that is not legal sets ACCERR and changes nothing else; a read of n bytes returns n bytes of zero, and no data
of a write reaches a register. -/
def Obligations.AccessErrorOnlySetsAccerr : Prop :=
  ∀ (s : State) (off n : Nat) (v : Word),
    (legalReg .read off n = none →
      busRead off n s = ({ s with status := { s.status with accErr := true } }, { bytes := n, data := 0 })) ∧
    (legalReg .write off n = none →
      busWrite off n v s = { s with status := { s.status with accErr := true } })

/-- R53: a legal read returns the register's current value and changes no state; CMD returns 0 and the reserved bits of STATUS
read 0. -/
def Obligations.LegalReadReturnsRegister : Prop :=
  ∀ (s : State) (off n : Nat) (r : Reg), legalReg .read off n = some r →
    off = regOffset r ∧ busRead off n s = (s, { bytes := 8, data := readReg r s }) ∧
    readReg .cmd s = 0 ∧ readReg .status s = s.status.word ∧ (readReg .status s).extractLsb' 5 3 = 0 ∧
    (readReg .status s).extractLsb' 12 52 = 0 ∧ readReg .poly s = s.poly ∧
    readReg .operand s = s.operand ∧ readReg .result s = s.result ∧ readReg .muR s = s.muR ∧
    readReg .recipR s = s.recipR ∧ (∀ i : Fin 16, readReg (.keyr i) s = s.keyr[i]) ∧
    (∀ i : Fin 16, readReg (.expr i) s = exponents[i])

/-- R24, R31: every bit of STATUS as a read returns it. -/
def Obligations.StatusWordLayout : Prop :=
  ∀ (s : State) (w : Word), w = readReg .status s →
    w.getLsbD 0 = s.status.busy ∧ w.getLsbD 1 = s.status.done ∧ w.getLsbD 2 = s.status.illegal ∧
    w.getLsbD 3 = s.status.overrun ∧ w.getLsbD 4 = s.status.accErr ∧
    w.extractLsb' 5 3 = 0 ∧ w.extractLsb' 8 4 = s.status.lastop ∧ w.extractLsb' 12 52 = 0

/-- R38: EXPR[i] = 128 + 64*i in every state, and no bus access changes it. -/
def Obligations.ExponentTableFixed : Prop :=
  ∀ (s : State) (i : Fin 16),
    readReg (.expr i) s = BitVec.ofNat 64 (128 + 64 * i.val) ∧
    ∀ a : Access, readReg (.expr i) (busAccess a s).1 = BitVec.ofNat 64 (128 + 64 * i.val)

/-- R55: bit i of the bus data word is bit i of the register, and byte k at GCE_BASE + off + k holds bits 8k+7:8k. -/
def Obligations.WindowLittleEndian : Prop :=
  ∀ (s : State) (r : Reg) (v : Word),
    (∀ i, (busRead (regOffset r) 8 s).2.data.getLsbD i = (readReg r s).getLsbD i) ∧
    (∀ i, (busWrite 0x010 8 v s).poly.getLsbD i = v.getLsbD i) ∧
    (∀ i, (busWrite 0x018 8 v s).operand.getLsbD i = v.getLsbD i) ∧
    (∀ k, k < 8 → ∃ b : Byte, windowByte s (Config.gceBase + regOffset r + k) = some b ∧
      (busRead (regOffset r) 8 s).2.byte k = b ∧ ∀ j, j < 8 → b.getLsbD j = (readReg r s).getLsbD (8 * k + j))

/-- R59, R22: no byte of a register stands outside the window or at a reserved offset, and GCE_BASE is a multiple of 0x200. -/
def Obligations.WindowHoldsRegistersOnly : Prop :=
  ∀ (s : State) (a : Nat),
    Config.gceBase % 0x200 = 0 ∧
    (windowByte s a = none ↔
      (a < Config.gceBase ∨ Config.gceBase + 0x200 ≤ a) ∨
      (Config.gceBase + 0x038 ≤ a ∧ a ≤ Config.gceBase + 0x07F) ∨
      (Config.gceBase + 0x180 ≤ a ∧ a ≤ Config.gceBase + 0x1FF))

/-- R97: a legal write to POLY or OPERAND stores all 64 bits, at any time, and changes nothing else. -/
def Obligations.OperandWritesStore : Prop :=
  ∀ (s : State) (v : Word),
    busWrite 0x010 8 v s = { s with poly := v } ∧ busWrite 0x018 8 v s = { s with operand := v }

/-- R96: a STATUS write clears exactly the W1C bits written as 1 and changes nothing else. -/
def Obligations.StatusWriteClearsOnes : Prop :=
  ∀ (s : State) (v : Word),
    busWrite 0x008 8 v s = { s with status :=
      { busy := s.status.busy
        done := if v.getLsbD 1 then false else s.status.done
        illegal := if v.getLsbD 2 then false else s.status.illegal
        overrun := if v.getLsbD 3 then false else s.status.overrun
        accErr := if v.getLsbD 4 then false else s.status.accErr
        lastop := s.status.lastop } }

/-- R64: writing back a value read from STATUS (in state `s`) to a later state `u` clears exactly the W1C bits that were read as 1;
a DONE set in between stays. -/
def Obligations.StatusWriteBackClearsRead : Prop :=
  ∀ s u : State,
    busWrite 0x008 8 (busRead 0x008 8 s).2.data u = { u with status :=
      { busy := u.status.busy
        done := u.status.done && !s.status.done
        illegal := u.status.illegal && !s.status.illegal
        overrun := u.status.overrun && !s.status.overrun
        accErr := u.status.accErr && !s.status.accErr
        lastop := u.status.lastop } }

/-- R58: writes to STATUS, POLY and OPERAND are idempotent. -/
def Obligations.RegisterWritesIdempotent : Prop :=
  ∀ (s : State) (off : Nat) (v : Word), off ∈ [0x008, 0x010, 0x018] →
    busWrite off 8 v (busWrite off 8 v s) = busWrite off 8 v s

/-! ## The command frame -/

/-- R91: a legal word written to CMD while BUSY = 0 is accepted: latches, LASTOP, DONE, BUSY, and nothing else. -/
def Obligations.AcceptLatchesOperands : Prop :=
  ∀ (s : State) (w : Word) (i : Instr), s.status.busy = false → decode w = .command i →
    busWrite 0x000 8 w s = { s with
      latOp := w.extractLsb' 0 4
      latPoly := s.poly
      latOpnd := s.operand
      status := { s.status with lastop := w.extractLsb' 0 4, done := false, busy := true } }

/-- R92: an illegal word written to CMD while BUSY = 0 sets ILLEGAL and clears DONE, and nothing else changes. -/
def Obligations.IllegalWordSetsIllegal : Prop :=
  ∀ (s : State) (w : Word) (why : IllegalWord), s.status.busy = false → decode w = .illegal why →
    busWrite 0x000 8 w s = { s with status := { s.status with illegal := true, done := false } }

/-- R94: any word written to CMD while BUSY = 1, legal or not, sets OVERRUN and is dropped. -/
def Obligations.OverrunDropsWord : Prop :=
  ∀ (s : State) (w : Word), s.status.busy = true →
    busWrite 0x000 8 w s = { s with status := { s.status with overrun := true } }

/-- R154: which flag one bus access raises: ACCERR for an illegal access, else OVERRUN for a CMD write while BUSY, else ILLEGAL for
an illegal word; so never two. -/
def Obligations.OneErrorFlagPerAccess : Prop :=
  ∀ (s : State) (a : Access) (t : State), t = (busAccess a s).1 →
    ((s.status.accErr = false ∧ t.status.accErr = true) ↔
      s.status.accErr = false ∧ ((∃ off n, a = .read off n ∧ legalReg .read off n = none) ∨
        ∃ off n v, a = .write off n v ∧ legalReg .write off n = none)) ∧
    ((s.status.overrun = false ∧ t.status.overrun = true) ↔
      s.status.overrun = false ∧ s.status.busy = true ∧ ∃ w, a = .write 0x000 8 w) ∧
    ((s.status.illegal = false ∧ t.status.illegal = true) ↔
      s.status.illegal = false ∧ s.status.busy = false ∧ ∃ w why, a = .write 0x000 8 w ∧ decode w = .illegal why) ∧
    ¬ ((s.status.accErr = false ∧ t.status.accErr = true) ∧ (s.status.overrun = false ∧ t.status.overrun = true)) ∧
    ¬ ((s.status.accErr = false ∧ t.status.accErr = true) ∧ (s.status.illegal = false ∧ t.status.illegal = true)) ∧
    ¬ ((s.status.overrun = false ∧ t.status.overrun = true) ∧ (s.status.illegal = false ∧ t.status.illegal = true))

/-! ## Who writes what, over every step -/

/-- R25: BUSY is set only by the accept of a command and cleared only by a completion or by reset. -/
def Obligations.BusyChangesOnlyByAcceptCompletionReset : Prop :=
  ∀ s t : State, step s = .next t →
    (s.status.busy = false → t.status.busy = true →
      nextTurn s = .host ∧ ∃ w i, hostAccess s = some (.write 0x000 8 w) ∧ decode w = .command i) ∧
    (s.status.busy = true → t.status.busy = false → nextTurn s = .engine ∨ nextTurn s = .reset)

/-- R26: DONE is set only by a completion, and cleared only by an accept, an illegal word, writing 1 to bit 1 of STATUS, or reset;
a dropped word leaves it. -/
def Obligations.DoneChangesOnlyAsStated : Prop :=
  ∀ s t : State, step s = .next t →
    (s.status.done = false → t.status.done = true → nextTurn s = .engine ∧ s.status.busy = true) ∧
    (s.status.done = true → t.status.done = false →
      nextTurn s = .reset ∨ (nextTurn s = .host ∧
        ((∃ w, hostAccess s = some (.write 0x000 8 w) ∧ s.status.busy = false) ∨
          ∃ v, hostAccess s = some (.write 0x008 8 v) ∧ v.getLsbD 1 = true)))

/-- R27, R28, R29: each error flag is set only by its own cause, and cleared only by writing 1 to its bit of STATUS or by reset. -/
def Obligations.ErrorFlagsSticky : Prop :=
  ∀ s t : State, step s = .next t →
    (s.status.illegal = false → t.status.illegal = true → nextTurn s = .host ∧ s.status.busy = false ∧
      ∃ w why, hostAccess s = some (.write 0x000 8 w) ∧ decode w = .illegal why) ∧
    (s.status.illegal = true → t.status.illegal = false →
      nextTurn s = .reset ∨ (nextTurn s = .host ∧ ∃ v, hostAccess s = some (.write 0x008 8 v) ∧ v.getLsbD 2 = true)) ∧
    (s.status.overrun = false → t.status.overrun = true → nextTurn s = .host ∧ s.status.busy = true ∧
      ∃ w, hostAccess s = some (.write 0x000 8 w)) ∧
    (s.status.overrun = true → t.status.overrun = false →
      nextTurn s = .reset ∨ (nextTurn s = .host ∧ ∃ v, hostAccess s = some (.write 0x008 8 v) ∧ v.getLsbD 3 = true)) ∧
    (s.status.accErr = false → t.status.accErr = true → nextTurn s = .host ∧
      ((∃ off n, hostAccess s = some (.read off n) ∧ legalReg .read off n = none) ∨
        ∃ off n v, hostAccess s = some (.write off n v) ∧ legalReg .write off n = none)) ∧
    (s.status.accErr = true → t.status.accErr = false →
      nextTurn s = .reset ∨ (nextTurn s = .host ∧ ∃ v, hostAccess s = some (.write 0x008 8 v) ∧ v.getLsbD 4 = true))

/-- From R30, who may change LASTOP: an accept, with the OP field of the accepted word, and reset (to 0); nothing else. That an accept
sets it is `AcceptLatchesOperands`; that it names the command in flight is in `StepKeepsInv`. -/
def Obligations.LastopWrittenAtAccept : Prop :=
  ∀ s t : State, step s = .next t →
    t.status.lastop = s.status.lastop ∨
    (nextTurn s = .reset ∧ t.status.lastop = 0) ∨
    (nextTurn s = .host ∧ s.status.busy = false ∧ t.status.busy = true ∧
      ∃ w i, hostAccess s = some (.write 0x000 8 w) ∧ decode w = .command i ∧ t.status.lastop = w.extractLsb' 0 4)

/-- R32, R33: POLY and OPERAND are written only by host writes at their offsets and by reset. -/
def Obligations.OperandsWrittenByHostOnly : Prop :=
  ∀ s t : State, step s = .next t →
    (t.poly = s.poly ∨ (nextTurn s = .reset ∧ t.poly = 0) ∨
      (nextTurn s = .host ∧ hostAccess s = some (.write 0x010 8 t.poly))) ∧
    (t.operand = s.operand ∨ (nextTurn s = .reset ∧ t.operand = 0) ∨
      (nextTurn s = .host ∧ hostAccess s = some (.write 0x018 8 t.operand)))

/-- R34: RESULT is written only by the completion of REV, MU, KEY or RECIP, with that command's result, and by reset; NOP and CSET
leave it. -/
def Obligations.ResultWrittenByCompletion : Prop :=
  ∀ s t : State, step s = .next t →
    t.result = s.result ∨
    (nextTurn s = .reset ∧ t.result = 0) ∨
    (nextTurn s = .engine ∧ s.status.busy = true ∧
      ((decodeOp s.latOp = some .rev ∧ t.result = rev64 s.latOpnd) ∨
        (decodeOp s.latOp = some .mu ∧ t.result = muGen s.latPoly) ∨
        (decodeOp s.latOp = some .key ∧ t.result = keyGen s.latOpnd s.latPoly) ∨
        (decodeOp s.latOp = some .recip ∧ t.result = recipGen s.latPoly)))

/-- R35, R36: MU_R, RECIP_R and all 16 keys are written together, only by the completion of CSET, and by reset. -/
def Obligations.ConstantSetWrittenTogether : Prop :=
  ∀ s t : State, step s = .next t →
    (t.muR = s.muR ∧ t.recipR = s.recipR ∧ t.keyr = s.keyr) ∨
    (nextTurn s = .reset ∧ t.muR = 0 ∧ t.recipR = 0 ∧ ∀ i : Fin 16, t.keyr[i] = 0) ∨
    (nextTurn s = .engine ∧ s.status.busy = true ∧ decodeOp s.latOp = some .cset ∧
      t.muR = muGen s.latPoly ∧ t.recipR = recipGen s.latPoly ∧
      ∀ i : Fin 16, t.keyr[i] = keyGen (BitVec.ofNat 64 (128 + 64 * i.val)) s.latPoly)

/-- R37: the latches are written only by accept, from POLY and OPERAND, and by reset, which sets them to 0. -/
def Obligations.LatchesWrittenAtAccept : Prop :=
  ∀ s t : State, step s = .next t →
    (t.latOp = s.latOp ∧ t.latPoly = s.latPoly ∧ t.latOpnd = s.latOpnd) ∨
    (nextTurn s = .reset ∧ t.latOp = 0 ∧ t.latPoly = 0 ∧ t.latOpnd = 0) ∨
    (nextTurn s = .host ∧ s.status.busy = false ∧ ∃ w i, hostAccess s = some (.write 0x000 8 w) ∧
      decode w = .command i ∧ t.latOp = w.extractLsb' 0 4 ∧ t.latPoly = s.poly ∧ t.latOpnd = s.operand)

/-! ## The commands -/

/-- R93, R95: NOP completes in every state and writes BUSY and DONE only. -/
def Obligations.NopCompletes : Prop :=
  ∀ s : State, exec .nop s = .next { s with status := { s.status with busy := false, done := true } }

/-- R100, R101: REV completes in every state; bit i of RESULT is bit 63 - i of lat.OPND; only RESULT, BUSY and DONE are written. -/
def Obligations.RevReversesBits : Prop :=
  ∀ s : State, ∃ r : Word, (∀ i, i < 64 → r.getLsbD i = s.latOpnd.getLsbD (63 - i)) ∧
    exec .rev s = .next { s with result := r, status := { s.status with busy := false, done := true } }

/-- R110, R111: MU completes in every state with the quotient that the rule's 64 iterations give, reversed. `high`, `low` and `q`
list the values before each iteration. -/
def Obligations.MuDividesSixtyFourSteps : Prop :=
  ∀ s : State, ∃ (high : Nat → Bool) (low q : Nat → Word),
    high 0 = true ∧ low 0 = 0 ∧ q 0 = 0 ∧
    (∀ k, k < 64 →
      q (k + 1) = (if high k then (q k <<< 1) ||| 1 else q k <<< 1) ∧
      high (k + 1) = (if high k then low k ^^^ s.latPoly else low k).getLsbD 63 ∧
      low (k + 1) = (if high k then low k ^^^ s.latPoly else low k) <<< 1) ∧
    exec .mu s = .next { s with result := rev64 (q 64), status := { s.status with busy := false, done := true } }

/-- R121, R122: KEY completes in every state, for every exponent and polynomial, with 0 when e <= 64 and else the reversal of
e - 64 steps n <- (n << 1) ^ (mask & p) from bit 63. -/
def Obligations.KeyRunsExponentSteps : Prop :=
  ∀ s : State,
    exec .key s = .next { s with
      result :=
        if s.latOpnd.toNat ≤ 64 then 0
        else rev64 ((fun n : Word =>
          (n <<< 1) ^^^ ((if n.getLsbD 63 then 0xFFFFFFFFFFFFFFFF else 0) &&& s.latPoly))^[s.latOpnd.toNat - 64]
            0x8000000000000000)
      status := { s.status with busy := false, done := true } }

/-- R131: RECIP completes in every state with (Rev64(p) << 1) | 1; bit 0 is 1 and bit j is p[64-j]. -/
def Obligations.RecipReversesShifts : Prop :=
  ∀ s : State, ∃ r : Word,
    r = (rev64 s.latPoly <<< 1) ||| 1 ∧ r.getLsbD 0 = true ∧
    (∀ j, 1 ≤ j → j ≤ 63 → r.getLsbD j = s.latPoly.getLsbD (64 - j)) ∧
    exec .recip s = .next { s with result := r, status := { s.status with busy := false, done := true } }

/-- R140: CSET completes in every state and writes KEYR[0..15], MU_R, RECIP_R, BUSY and DONE only. -/
def Obligations.CsetWritesConstantSet : Prop :=
  ∀ s : State, ∃ keys : Vector Word 16,
    (∀ i : Fin 16, keys[i] = keyGen (BitVec.ofNat 64 (128 + 64 * i.val)) s.latPoly) ∧
    exec .cset s = .next { s with
      keyr := keys
      muR := muGen s.latPoly
      recipR := recipGen s.latPoly
      status := { s.status with busy := false, done := true } }

/-- R93, R179: the frame of every command. REV, MU, KEY and RECIP write RESULT only, CSET the constant set only, NOP neither; no
command changes POLY, OPERAND, the latches, LASTOP, an error flag, or the host's own fields. -/
def Obligations.CommandsFrame : Prop :=
  ∀ (i : Instr) (s t : State), exec i s = .next t →
    t.poly = s.poly ∧ t.operand = s.operand ∧ t.latOp = s.latOp ∧ t.latPoly = s.latPoly ∧ t.latOpnd = s.latOpnd ∧
    t.status = { s.status with busy := false, done := true } ∧
    t.program = s.program ∧ t.replies = s.replies ∧ t.schedule = s.schedule ∧
    (i = .nop ∨ i = .cset → t.result = s.result) ∧
    (i ≠ .cset → t.muR = s.muR ∧ t.recipR = s.recipR ∧ t.keyr = s.keyr)

/-- The frame in the host's byte view (R55, R93, R179): every byte of the window outside STATUS and the command's own destination
registers reads as before. -/
def Obligations.CommandsFrameWindowBytes : Prop :=
  ∀ (i : Instr) (s t : State) (a : Nat), exec i s = .next t →
    ¬ (Config.gceBase + 0x008 ≤ a ∧ a < Config.gceBase + 0x010) →
    (i = .rev ∨ i = .mu ∨ i = .key ∨ i = .recip →
      ¬ (Config.gceBase + 0x020 ≤ a ∧ a < Config.gceBase + 0x028) → windowByte t a = windowByte s a) ∧
    (i = .cset →
      ¬ (Config.gceBase + 0x028 ≤ a ∧ a < Config.gceBase + 0x038) →
      ¬ (Config.gceBase + 0x080 ≤ a ∧ a < Config.gceBase + 0x100) → windowByte t a = windowByte s a) ∧
    (i = .nop → windowByte t a = windowByte s a)

/-- R9: what a completion writes depends on the latches alone. -/
def Obligations.ResultsDependOnLatchesOnly : Prop :=
  ∀ (i : Instr) (s u t v : State), s.latPoly = u.latPoly → s.latOpnd = u.latOpnd →
    exec i s = .next t → exec i u = .next v →
    (i ≠ .nop → i ≠ .cset → t.result = v.result) ∧
    (i = .cset → t.muR = v.muR ∧ t.recipR = v.recipR ∧ t.keyr = v.keyr)

/-- R143: CSET agrees with KEY, MU and RECIP issued on the same POLY. -/
def Obligations.CsetAgreesWithSingleCommands : Prop :=
  ∀ s u : State, u.latPoly = s.latPoly →
    ∃ c m r, exec .cset s = .next c ∧ exec .mu u = .next m ∧ exec .recip u = .next r ∧
      c.muR = m.result ∧ c.recipR = r.result ∧
      ∀ (i : Fin 16) (v : State), v.latPoly = s.latPoly → v.latOpnd = readReg (.expr i) v →
        ∃ k, exec .key v = .next k ∧ c.keyr[i] = k.result

/-! ## The arithmetic -/

/-- R102: Rev64 is an involution, fixes 0 and all ones, and swaps bit 0 and bit 63; it is linear over GF(2). -/
def Obligations.Rev64Properties : Prop :=
  (∀ x : Word, rev64 (rev64 x) = x) ∧ rev64 0 = 0 ∧ rev64 0xFFFFFFFFFFFFFFFF = 0xFFFFFFFFFFFFFFFF ∧
  rev64 (1 <<< 63) = 1 ∧ rev64 1 = 1 <<< 63 ∧ (∀ a b : Word, rev64 (a ^^^ b) = rev64 a ^^^ rev64 b)

/-- R112: bit 0 of every MU result is 1. -/
def Obligations.MuResultOdd : Prop :=
  ∀ s : State, ∃ t, exec .mu s = .next t ∧ t.result.getLsbD 0 = true

/-- R113, an inference that the spec marks as its own ("[derived: from rule R111 …]"): MuGen(p) is the reversal of the quotient
of x^127 by P = x^64 + p. -/
def Obligations.MuClosedForm : Prop :=
  ∀ p : Word, toPoly (rev64 (muGen p)) = (Polynomial.X ^ 127 : Polynomial (ZMod 2)) /ₘ genPoly p

/-- R123, an inference that the spec marks as its own ("[derived: from rules R121 and R122 …]"): for e > 64, KeyGen(e, p) is the
reversal of x^(e-1) mod P = x^64 + p. -/
def Obligations.KeyClosedForm : Prop :=
  ∀ e p : Word, 64 < e.toNat →
    toPoly (rev64 (keyGen e p)) = (Polynomial.X ^ (e.toNat - 1) : Polynomial (ZMod 2)) %ₘ genPoly p

/-- R124: KEY gives 0 for every exponent at or below 64 and every polynomial. -/
def Obligations.KeyShortCircuit : Prop :=
  ∀ s : State, s.latOpnd.toNat ≤ 64 → ∃ t, exec .key s = .next t ∧ t.result = 0

/-- The corner cases of R120: e = 65 gives Rev64(p), and p = 0 gives 0 for every exponent. -/
def Obligations.KeyCornerCases : Prop :=
  ∀ s : State,
    (s.latOpnd = 65 → ∃ t, exec .key s = .next t ∧ t.result = rev64 s.latPoly) ∧
    (s.latPoly = 0 → ∃ t, exec .key s = .next t ∧ t.result = 0)

/-- R132, an inference that the spec marks as its own: the coefficients of RecipGen(p) are those of P = x^64 + p end to end. -/
def Obligations.RecipReversesPolynomial : Prop :=
  ∀ (p : Word) (j : Nat), j < 64 → (toPoly (recipGen p)).coeff j = (genPoly p).coeff (64 - j)

/-! ## The agents -/

/-- R93, R98: an engine turn with a command in flight is exec of the command that lat.OP names, at the state whose turn is taken
off the schedule. -/
def Obligations.StepRunsLatchedCommand : Prop :=
  ∀ (s : State) (i : Instr), nextTurn s = .engine → s.status.busy = true → decodeOp s.latOp = some i →
    step s = exec i { s with schedule := s.schedule.tail }

/-- A command word that decodes, placed where step takes its next command, is run by the very next step on the operands its accept
latches (R91, R93; log entry 5: the placing stands for the CMD write). -/
def Obligations.PlacedWordRunsNext : Prop :=
  ∀ (s : State) (i : Instr),
    step (s.withFetchWord 64 (encode i).toNat) = exec i { s with
      latOp := i.opcode
      latPoly := s.poly
      latOpnd := s.operand
      status := { s.status with lastop := i.opcode, done := false, busy := true } }

/-- R21, R93: a completion is enabled exactly when BUSY = 1: an engine turn while BUSY = 0 changes no register (that the turn is
then spent is the model's choice, log entry 3). -/
def Obligations.EngineIdleWithoutCommand : Prop :=
  ∀ s : State, nextTurn s = .engine → s.status.busy = false → step s = .next { s with schedule := s.schedule.tail }

/-- R76, R77: a host turn performs the first statement of the program as exactly one bus access. A write is done; a read's reply
becomes the next temporary; a POLL stays until its test holds (that its last read is kept as a temporary is log entry 7). -/
def Obligations.HostTurnPerformsStatement : Prop :=
  ∀ (s d : State) (rest : List Stmt), nextTurn s = .host → d = { s with schedule := s.schedule.tail } →
    (∀ n loc v, s.program = .wr n loc v :: rest →
      step s = .next { busWrite (locOffset loc) n (valueOf s.replies v) d with program := rest }) ∧
    (∀ n loc, s.program = .rd n loc :: rest →
      step s = .next { (busRead (locOffset loc) n d).1 with
        program := rest, replies := s.replies ++ [(busRead (locOffset loc) n d).2] }) ∧
    (∀ r mask val, s.program = .poll r mask val :: rest →
      (readReg r s &&& mask = val → step s = .next { d with
        program := rest, replies := s.replies ++ [{ bytes := 8, data := readReg r s }] }) ∧
      (readReg r s &&& mask ≠ val → step s = .next d))

/-- R170, R171: a reset turn puts every register, latch and flag at its reset value in one transition, from any state, a command in
flight or not. (The host's own fields stay: the model's choice, log entry 6.) -/
def Obligations.ResetTurnResetsEverything : Prop :=
  ∀ s : State, nextTurn s = .reset → ∃ t, step s = .next t ∧
    t.status.busy = false ∧ t.status.done = false ∧ t.status.illegal = false ∧ t.status.overrun = false ∧
    t.status.accErr = false ∧ t.status.lastop = 0 ∧ readReg .status t = 0 ∧
    t.poly = 0 ∧ t.operand = 0 ∧ t.result = 0 ∧ t.muR = 0 ∧ t.recipR = 0 ∧ (∀ i : Fin 16, t.keyr[i] = 0) ∧
    (∀ i : Fin 16, readReg (.expr i) t = BitVec.ofNat 64 (128 + 64 * i.val)) ∧
    t.latOp = 0 ∧ t.latPoly = 0 ∧ t.latOpnd = 0 ∧
    t.program = s.program ∧ t.replies = s.replies ∧ t.schedule = s.schedule.tail

/-- R171: the state after reset, register by register as a host reads it, and the latches. -/
def Obligations.ResetStateValues : Prop :=
  (∀ r : Reg, readReg r State.reset = match r with
    | .expr i => BitVec.ofNat 64 (128 + 64 * i.val)
    | _ => 0) ∧
  State.reset.latOp = 0 ∧ State.reset.latPoly = 0 ∧ State.reset.latOpnd = 0

/-- A host sees the window only (R37, R163): states that read alike in every register answer every access alike, whatever the
latches hold. -/
def Obligations.AccessesSeeRegistersOnly : Prop :=
  ∀ (s u : State) (a : Access), (∀ r, readReg r s = readReg r u) → (busAccess a s).2 = (busAccess a u).2

/-- R155: a CMD write of `w` and the completion of the command in flight, in both orders: dropped with OVERRUN when the write is
ordered before the completion; handled as an accept or an illegal word when it is ordered after. -/
def Obligations.RaceAdmitsBothOrders : Prop :=
  ∀ (s : State) (w : Word) (rest : List Stmt) (later : List Turn) (i : Instr),
    s.status.busy = true → decodeOp s.latOp = some i →
    s.program = .wr 8 (.reg .cmd) (.lit w) :: rest →
    (s.schedule = .host :: .engine :: later →
      ∃ t, core.run 2 s = .next t ∧ t.status.overrun = true ∧ t.status.done = true ∧ t.status.busy = false ∧
        t.status.lastop = s.status.lastop ∧ t.latOp = s.latOp ∧ t.status.illegal = s.status.illegal) ∧
    (s.schedule = .engine :: .host :: later →
      ∃ t, core.run 2 s = .next t ∧ t.status.overrun = s.status.overrun ∧
        (∀ j, decode w = .command j → t.status.busy = true ∧ t.status.done = false ∧ t.latOp = j.opcode ∧
          t.status.lastop = j.opcode ∧ t.latPoly = s.poly ∧ t.latOpnd = s.operand) ∧
        (∀ why, decode w = .illegal why → t.status.busy = false ∧ t.status.done = false ∧ t.status.illegal = true))

/-! ## Invariants and runs -/

/-- The state after reset meets the invariant. -/
def Obligations.InvHoldsAtReset : Prop := Inv State.reset

/-- Every step keeps the invariant: BUSY excludes DONE (R42), lat.OP names a command and LASTOP names the latch (R93, R30), and the
constant-set registers are those of reset or one whole constant set (R35, R36, R57). -/
def Obligations.StepKeepsInv : Prop := ∀ s t : State, Inv s → step s = .next t → Inv t

/-- R150, R152: nothing stops the machine. From a state of the invariant every run of every length goes on; and a step that stops
is the engine's, with lat.OP naming no command. -/
def Obligations.NothingStopsTheMachine : Prop :=
  (∀ (s : State) (n : Nat), Inv s → SafeRun n s) ∧
  (∀ (s : State) (f : Fault), step s = .fault f →
    nextTurn s = .engine ∧ s.status.busy = true ∧ 6 ≤ s.latOp.toNat) ∧
  (∀ (s : State) (r : Refusal), step s ≠ .refused r)

/-- R99, R182: a command in flight ends, whatever turns are scheduled: BUSY falls within one step more than the schedule has turns.
(That the engine moves once the schedule is empty is the model's form of the spec's fairness, log entries 1 and 4.) -/
def Obligations.CommandInFlightEnds : Prop :=
  ∀ s : State, Inv s → s.status.busy = true →
    ∃ k t, 1 ≤ k ∧ k ≤ s.schedule.length + 1 ∧ core.run k s = .next t ∧ t.status.busy = false

/-- R65, R94, R175: host accesses between an accept and its completion never change the command in flight. After any number of host
turns, whatever statements they perform, the completion leaves the result registers, LASTOP and DONE as it would have at once. -/
def Obligations.CommandInFlightUndisturbed : Prop :=
  ∀ (s u : State) (i : Instr) (n : Nat) (later : List Turn),
    s.status.busy = true → decodeOp s.latOp = some i → exec i s = .next u →
    s.schedule = List.replicate n .host ++ .engine :: later →
    ∃ t, core.run (n + 1) s = .next t ∧
      t.status.busy = false ∧ t.status.done = true ∧ t.status.lastop = s.status.lastop ∧
      t.result = u.result ∧ t.muR = u.muR ∧ t.recipR = u.recipR ∧ t.keyr = u.keyr ∧ t.schedule = later

/-- R178: the completion check. From BUSY = 0 and no error flag, a write to offset 0x000 followed by WAIT, under every order of host
and engine turns: the last STATUS read has BUSY = 0 and OVERRUN = 0, and tells an accepted and completed command, an illegal word
and an illegal access apart. (That the host gets past WAIT under every schedule rests on who moves once the schedule is empty, log
entries 1 and 4; that the last read of the POLL is the appended temporary, on log entry 7. R178 says neither.) -/
def Obligations.CompletionCheck : Prop :=
  ∀ (s : State) (n : Nat) (w : Word) (rest : List Stmt),
    s.status.busy = false → s.status.illegal = false → s.status.overrun = false → s.status.accErr = false →
    (∀ turn ∈ s.schedule, turn ≠ .reset) →
    s.program = .wr n (.reg .cmd) (.lit w) :: .poll .status 0x1 0x0 :: rest →
    ∃ k t r, core.run k s = .next t ∧ t.program = rest ∧ t.replies = s.replies ++ [r] ∧
      r.data.getLsbD 0 = false ∧ r.data.getLsbD 3 = false ∧
      (n = 8 → ∀ i, decode w = .command i →
        r.data.getLsbD 1 = true ∧ r.data.getLsbD 2 = false ∧ r.data.extractLsb' 8 4 = w.extractLsb' 0 4) ∧
      (n = 8 → ∀ why, decode w = .illegal why → r.data.getLsbD 1 = false ∧ r.data.getLsbD 2 = true) ∧
      (n ≠ 8 → r.data.getLsbD 1 = s.status.done ∧ r.data.getLsbD 4 = true)

/-- R173: MU_R = 0 or RECIP_R = 0 shows that no CSET has completed since reset; a CSET leaves both with bit 0 set. -/
def Obligations.ResetSetToldApart : Prop :=
  (∀ s : State, Inv s → s.muR = 0 ∨ s.recipR = 0 → ResetSet s) ∧
  (∀ s : State, ∃ t, exec .cset s = .next t ∧ t.muR.getLsbD 0 = true ∧ t.recipR.getLsbD 0 = true)
end

