-- ==== Sys2Proof/Laws/Gf2.lean ====
section
/-! SUPPORT. Words as polynomials over GF(2) (00_scope.md R7, R8): the coefficients of `toPoly`, the residue of a word modulo
P = x^64 + p, and that square-and-multiply computes the loop of R122 (43_key_reducer.md R126). -/

namespace Sys2Proof.Laws

open Machine Polynomial

@[simp] theorem coeff_toPoly (w : Word) (j : Nat) : (toPoly w).coeff j = if w.getLsbD j then 1 else 0 := by
  have h : ∀ i, ((if w.getLsbD i then X ^ i else 0 : (ZMod 2)[X])).coeff j
      = if i = j then (if w.getLsbD j then 1 else 0) else 0 := by
    intro i
    by_cases hij : i = j
    · subst hij; by_cases hw : w.getLsbD i <;> simp [hw]
    · by_cases hw : w.getLsbD i <;> simp [hw, coeff_X_pow, hij, Ne.symm hij]
  simp only [toPoly, finsetSum_coeff, h, Finset.sum_ite_eq', Finset.mem_range]
  by_cases hj : j < 64
  · simp [hj]
  · simp [hj, BitVec.getLsbD_of_ge w j (by omega)]

theorem toPoly_injective {a b : Word} (h : toPoly a = toPoly b) : a = b := by
  apply BitVec.eq_of_getLsbD_eq
  intro i _
  have := congrArg (fun q => q.coeff i) h
  simp only [coeff_toPoly] at this
  cases ha : a.getLsbD i <;> cases hb : b.getLsbD i <;> simp [ha, hb] at this ⊢

@[simp] theorem toPoly_zero : toPoly 0#64 = 0 := by ext j; simp

theorem toPoly_xor (a b : Word) : toPoly (a ^^^ b) = toPoly a + toPoly b := by
  ext j
  simp only [coeff_toPoly, coeff_add, BitVec.getLsbD_xor]
  cases a.getLsbD j <;> cases b.getLsbD j <;> decide

theorem degree_toPoly_lt (w : Word) : (toPoly w).degree < (64 : Nat) := by
  rw [degree_lt_iff_coeff_zero]
  intro m hm
  simp [BitVec.getLsbD_of_ge w m hm]

theorem genPoly_monic (p : Word) : (genPoly p).Monic := monic_X_pow_add (degree_toPoly_lt p)

theorem degree_genPoly (p : Word) : (genPoly p).degree = (64 : Nat) := by
  rw [genPoly, degree_add_eq_left_of_degree_lt, degree_X_pow]
  rw [degree_X_pow]
  exact degree_toPoly_lt p

/-- Multiplying by x shifts the word left; the bit shifted out is the x^64 coefficient (R121). -/
theorem X_mul_toPoly (n : Word) :
    X * toPoly n = toPoly (n <<< 1) + if n.getLsbD 63 then X ^ 64 else 0 := by
  ext j
  have h63 : ∀ k, ((if n.getLsbD 63 then X ^ 64 else 0 : (ZMod 2)[X])).coeff k
      = if k = 64 ∧ n.getLsbD 63 then 1 else 0 := by
    intro k
    cases n.getLsbD 63 <;> simp [coeff_X_pow]
  rw [coeff_add, h63, coeff_toPoly]
  cases j with
  | zero => simp
  | succ k =>
    rw [coeff_X_mul, coeff_toPoly, BitVec.getLsbD_shiftLeft]
    rcases Nat.lt_trichotomy k 63 with h | h | h
    · have h1 : k + 1 < 64 := by omega
      have h2 : ¬ k = 63 := by omega
      simp [h1, h2]
    · subst h; simp
    · have h2 : ¬ k = 63 := by omega
      simp [h2, BitVec.getLsbD_of_ge n k (by omega)]

/-- The mask of R121 keeps `p` exactly when the bit shifted out is 1 (R125). -/
theorem mulXMod_eq_ite (n p : Word) :
    mulXMod n p = if n.getLsbD 63 then (n <<< 1) ^^^ p else n <<< 1 := by
  unfold mulXMod
  cases n.getLsbD 63
  · have : (0 - (BitVec.ofBool false).setWidth 64 : Word) = 0 := by decide
    rw [this]; simp
  · have : (0 - (BitVec.ofBool true).setWidth 64 : Word) = BitVec.allOnes 64 := by decide
    rw [this, BitVec.allOnes_and]
    simp

/-- MulXMod is multiplication by x, less P when the degree overflowed (R121). -/
theorem X_mul_toPoly_eq_mulXMod (n p : Word) :
    X * toPoly n = toPoly (mulXMod n p) + if n.getLsbD 63 then genPoly p else 0 := by
  rw [X_mul_toPoly, mulXMod_eq_ite]
  have h2 : (2 : (ZMod 2)[X]) = 0 := by
    have : (2 : ZMod 2) = 0 := by decide
    rw [← C_ofNat, this, C_0]
  cases n.getLsbD 63
  · simp
  · simp only [if_true, toPoly_xor, genPoly]
    linear_combination (-toPoly p) * h2

/-- The residue class of a word modulo P = x^64 + p. -/
noncomputable def residue (p w : Word) : AdjoinRoot (genPoly p) := AdjoinRoot.mk (genPoly p) (toPoly w)

theorem residue_xor (p a b : Word) : residue p (a ^^^ b) = residue p a + residue p b := by
  simp [residue, toPoly_xor]

@[simp] theorem residue_zero (p : Word) : residue p 0#64 = 0 := by simp [residue]

/-- Two words in one class are one word: both have degree below 64. -/
theorem residue_injective {p a b : Word} (h : residue p a = residue p b) : a = b := by
  apply toPoly_injective
  have hdvd := AdjoinRoot.mk_eq_mk.mp h
  rw [← sub_eq_zero]
  refine eq_zero_of_dvd_of_degree_lt hdvd ?_
  rw [degree_genPoly]
  exact lt_of_le_of_lt (degree_sub_le _ _) (max_lt (degree_toPoly_lt a) (degree_toPoly_lt b))

theorem residue_mulXMod (p n : Word) :
    residue p (mulXMod n p) = AdjoinRoot.root (genPoly p) * residue p n := by
  have h : AdjoinRoot.mk (genPoly p) (X * toPoly n) = residue p (mulXMod n p) := by
    rw [X_mul_toPoly_eq_mulXMod n p, map_add, residue]
    split <;> simp
  rw [← h, map_mul, AdjoinRoot.mk_X, residue]

theorem residue_one (p : Word) : residue p 1#64 = 1 := by
  have : toPoly 1#64 = 1 := by
    ext j
    rw [coeff_toPoly, coeff_one]
    cases j <;> simp
  rw [residue, this, map_one]

/-- `k` MulXMod steps multiply the class by x^k (R122, R123). -/
theorem residue_iterate_mulXMod (p n : Word) (k : Nat) :
    residue p ((fun m => mulXMod m p)^[k] n) = AdjoinRoot.root (genPoly p) ^ k * residue p n := by
  induction k generalizing n with
  | zero => simp
  | succ k ih => rw [Function.iterate_succ_apply, ih, residue_mulXMod]; ring

/-- The low `k` bits of a word, as a class: the sum of their powers of x. -/
theorem residue_mulModBits (p a b : Word) (k : Nat) (acc : Word) :
    residue p (mulModBits a b p k acc) = AdjoinRoot.root (genPoly p) ^ k * residue p acc
      + residue p a * ∑ i ∈ Finset.range k, if b.getLsbD i then AdjoinRoot.root (genPoly p) ^ i else 0 := by
  induction k generalizing acc with
  | zero => simp [mulModBits]
  | succ k ih =>
    rw [mulModBits, ih, residue_xor, residue_mulXMod, Finset.sum_range_succ]
    cases b.getLsbD k
    · simp; ring
    · simp; ring

theorem residue_mulMod (p a b : Word) : residue p (mulMod a b p) = residue p a * residue p b := by
  rw [mulMod, residue_mulModBits, BitVec.ofNat_eq_ofNat, residue_zero]
  have : residue p b = ∑ i ∈ Finset.range 64, if b.getLsbD i then AdjoinRoot.root (genPoly p) ^ i else 0 := by
    rw [residue, toPoly, map_sum]
    refine Finset.sum_congr rfl fun i _ => ?_
    split <;> simp
  rw [this]; simp

/-- Square and multiply gives the power of x, as long as the fuel covers the exponent's bits (R126). -/
theorem residue_xPowMod (p : Word) (fuel k : Nat) (hk : k < 2 ^ fuel) :
    residue p (xPowMod p fuel k) = AdjoinRoot.root (genPoly p) ^ k := by
  induction fuel generalizing k with
  | zero => simp only [pow_zero, Nat.lt_one_iff] at hk; subst hk; simp [xPowMod, residue_one]
  | succ fuel ih =>
    rw [xPowMod]
    have hhalf : k / 2 < 2 ^ fuel := by rw [pow_succ] at hk; omega
    split
    · next h => subst h; simp [residue_one]
    · split
      · next h =>
        rw [residue_mulXMod, residue_mulMod, ih _ hhalf, ← pow_add, ← pow_succ']
        congr 1; omega
      · next h =>
        rw [residue_mulMod, ih _ hhalf, ← pow_add]
        congr 1; omega

theorem residue_keyStart (p : Word) : residue p keyStart = AdjoinRoot.root (genPoly p) ^ 63 := by
  have : keyStart = (fun m => mulXMod m p)^[63] 1#64 := by
    have step : ∀ k, k ≤ 63 → (fun m => mulXMod m p)^[k] 1#64 = 1#64 <<< k := by
      intro k
      induction k with
      | zero => simp
      | succ k ih =>
        intro hk
        rw [Function.iterate_succ_apply', ih (by omega), mulXMod_eq_ite]
        have : (1#64 <<< k).getLsbD 63 = false := by
          simp only [BitVec.getLsbD_shiftLeft, BitVec.getLsbD_one]
          simp; omega
        rw [this, ← BitVec.shiftLeft_add]; simp
    rw [step 63 (le_refl _)]; decide
  rw [this, residue_iterate_mulXMod, residue_one, mul_one]

/-- The fast method computes the loop of R122, for every exponent and polynomial (R126). -/
theorem keyGenFast_eq_keyGen (e p : Word) : keyGenFast e p = keyGen e p := by
  unfold keyGenFast keyGen
  split
  · rfl
  · next h =>
    congr 1
    apply residue_injective (p := p)
    have he : 64 < e.toNat := by
      have : ¬ e.toNat ≤ 64 := fun hle => h (by simpa [BitVec.le_def] using hle)
      omega
    have hlt : e.toNat < 2 ^ 64 := e.isLt
    rw [residue_xPowMod p 64 _ (by omega), residue_iterate_mulXMod, residue_keyStart, ← pow_add]
    congr 1; omega

end Sys2Proof.Laws
end

