-- ==== Sys2Proof/Laws/State.lean ====
section
/-! SUPPORT. What each named update of State and of STATUS leaves in each field: one lemma per field per update, true by rfl. -/

namespace Sys2Proof.Laws

open Machine

@[simp] theorem status_accept_busy (op : BitVec 4) (st : Status) : (st.accept op).busy = true := rfl
@[simp] theorem status_accept_done (op : BitVec 4) (st : Status) : (st.accept op).done = false := rfl
@[simp] theorem status_accept_illegal (op : BitVec 4) (st : Status) : (st.accept op).illegal = st.illegal := rfl
@[simp] theorem status_accept_overrun (op : BitVec 4) (st : Status) : (st.accept op).overrun = st.overrun := rfl
@[simp] theorem status_accept_accErr (op : BitVec 4) (st : Status) : (st.accept op).accErr = st.accErr := rfl
@[simp] theorem status_accept_lastop (op : BitVec 4) (st : Status) : (st.accept op).lastop = op := rfl

@[simp] theorem status_complete_busy (st : Status) : st.complete.busy = false := rfl
@[simp] theorem status_complete_done (st : Status) : st.complete.done = true := rfl
@[simp] theorem status_complete_illegal (st : Status) : st.complete.illegal = st.illegal := rfl
@[simp] theorem status_complete_overrun (st : Status) : st.complete.overrun = st.overrun := rfl
@[simp] theorem status_complete_accErr (st : Status) : st.complete.accErr = st.accErr := rfl
@[simp] theorem status_complete_lastop (st : Status) : st.complete.lastop = st.lastop := rfl

@[simp] theorem status_clearOnes_busy (v : Word) (st : Status) : (st.clearOnes v).busy = st.busy := rfl
@[simp] theorem status_clearOnes_done (v : Word) (st : Status) : (st.clearOnes v).done = (st.done && !v.getLsbD 1) := rfl
@[simp] theorem status_clearOnes_illegal (v : Word) (st : Status) : (st.clearOnes v).illegal = (st.illegal && !v.getLsbD 2) := rfl
@[simp] theorem status_clearOnes_overrun (v : Word) (st : Status) : (st.clearOnes v).overrun = (st.overrun && !v.getLsbD 3) := rfl
@[simp] theorem status_clearOnes_accErr (v : Word) (st : Status) : (st.clearOnes v).accErr = (st.accErr && !v.getLsbD 4) := rfl
@[simp] theorem status_clearOnes_lastop (v : Word) (st : Status) : (st.clearOnes v).lastop = st.lastop := rfl

@[simp] theorem status_flag_illegal_busy (st : Status) : (st.flag .illegal).busy = st.busy := rfl
@[simp] theorem status_flag_illegal_done (st : Status) : (st.flag .illegal).done = st.done := rfl
@[simp] theorem status_flag_illegal_illegal (st : Status) : (st.flag .illegal).illegal = true := rfl
@[simp] theorem status_flag_illegal_overrun (st : Status) : (st.flag .illegal).overrun = st.overrun := rfl
@[simp] theorem status_flag_illegal_accErr (st : Status) : (st.flag .illegal).accErr = st.accErr := rfl
@[simp] theorem status_flag_illegal_lastop (st : Status) : (st.flag .illegal).lastop = st.lastop := rfl

@[simp] theorem status_flag_overrun_busy (st : Status) : (st.flag .overrun).busy = st.busy := rfl
@[simp] theorem status_flag_overrun_done (st : Status) : (st.flag .overrun).done = st.done := rfl
@[simp] theorem status_flag_overrun_illegal (st : Status) : (st.flag .overrun).illegal = st.illegal := rfl
@[simp] theorem status_flag_overrun_overrun (st : Status) : (st.flag .overrun).overrun = true := rfl
@[simp] theorem status_flag_overrun_accErr (st : Status) : (st.flag .overrun).accErr = st.accErr := rfl
@[simp] theorem status_flag_overrun_lastop (st : Status) : (st.flag .overrun).lastop = st.lastop := rfl

@[simp] theorem status_flag_accErr_busy (st : Status) : (st.flag .accErr).busy = st.busy := rfl
@[simp] theorem status_flag_accErr_done (st : Status) : (st.flag .accErr).done = st.done := rfl
@[simp] theorem status_flag_accErr_illegal (st : Status) : (st.flag .accErr).illegal = st.illegal := rfl
@[simp] theorem status_flag_accErr_overrun (st : Status) : (st.flag .accErr).overrun = st.overrun := rfl
@[simp] theorem status_flag_accErr_accErr (st : Status) : (st.flag .accErr).accErr = true := rfl
@[simp] theorem status_flag_accErr_lastop (st : Status) : (st.flag .accErr).lastop = st.lastop := rfl

@[simp] theorem status_reset_busy : Status.reset.busy = false := rfl
@[simp] theorem status_reset_done : Status.reset.done = false := rfl
@[simp] theorem status_reset_illegal : Status.reset.illegal = false := rfl
@[simp] theorem status_reset_overrun : Status.reset.overrun = false := rfl
@[simp] theorem status_reset_accErr : Status.reset.accErr = false := rfl
@[simp] theorem status_reset_lastop : Status.reset.lastop = 0 := rfl

@[simp] theorem state_flag_status (c : ErrorCause) (s : State) : (s.flag c).status = s.status.flag c := rfl
@[simp] theorem state_flag_poly (c : ErrorCause) (s : State) : (s.flag c).poly = s.poly := rfl
@[simp] theorem state_flag_operand (c : ErrorCause) (s : State) : (s.flag c).operand = s.operand := rfl
@[simp] theorem state_flag_result (c : ErrorCause) (s : State) : (s.flag c).result = s.result := rfl
@[simp] theorem state_flag_muR (c : ErrorCause) (s : State) : (s.flag c).muR = s.muR := rfl
@[simp] theorem state_flag_recipR (c : ErrorCause) (s : State) : (s.flag c).recipR = s.recipR := rfl
@[simp] theorem state_flag_keyr (c : ErrorCause) (s : State) : (s.flag c).keyr = s.keyr := rfl
@[simp] theorem state_flag_latOp (c : ErrorCause) (s : State) : (s.flag c).latOp = s.latOp := rfl
@[simp] theorem state_flag_latPoly (c : ErrorCause) (s : State) : (s.flag c).latPoly = s.latPoly := rfl
@[simp] theorem state_flag_latOpnd (c : ErrorCause) (s : State) : (s.flag c).latOpnd = s.latOpnd := rfl
@[simp] theorem state_flag_program (c : ErrorCause) (s : State) : (s.flag c).program = s.program := rfl
@[simp] theorem state_flag_replies (c : ErrorCause) (s : State) : (s.flag c).replies = s.replies := rfl
@[simp] theorem state_flag_schedule (c : ErrorCause) (s : State) : (s.flag c).schedule = s.schedule := rfl

@[simp] theorem accept_status (w : Word) (s : State) : (accept w s).status = s.status.accept (opField w) := rfl
@[simp] theorem accept_poly (w : Word) (s : State) : (accept w s).poly = s.poly := rfl
@[simp] theorem accept_operand (w : Word) (s : State) : (accept w s).operand = s.operand := rfl
@[simp] theorem accept_result (w : Word) (s : State) : (accept w s).result = s.result := rfl
@[simp] theorem accept_muR (w : Word) (s : State) : (accept w s).muR = s.muR := rfl
@[simp] theorem accept_recipR (w : Word) (s : State) : (accept w s).recipR = s.recipR := rfl
@[simp] theorem accept_keyr (w : Word) (s : State) : (accept w s).keyr = s.keyr := rfl
@[simp] theorem accept_latOp (w : Word) (s : State) : (accept w s).latOp = opField w := rfl
@[simp] theorem accept_latPoly (w : Word) (s : State) : (accept w s).latPoly = s.poly := rfl
@[simp] theorem accept_latOpnd (w : Word) (s : State) : (accept w s).latOpnd = s.operand := rfl
@[simp] theorem accept_program (w : Word) (s : State) : (accept w s).program = s.program := rfl
@[simp] theorem accept_replies (w : Word) (s : State) : (accept w s).replies = s.replies := rfl
@[simp] theorem accept_schedule (w : Word) (s : State) : (accept w s).schedule = s.schedule := rfl

@[simp] theorem illegalCommand_status (s : State) : (illegalCommand s).status = { s.status.flag .illegal with done := false } := rfl
@[simp] theorem illegalCommand_poly (s : State) : (illegalCommand s).poly = s.poly := rfl
@[simp] theorem illegalCommand_operand (s : State) : (illegalCommand s).operand = s.operand := rfl
@[simp] theorem illegalCommand_result (s : State) : (illegalCommand s).result = s.result := rfl
@[simp] theorem illegalCommand_muR (s : State) : (illegalCommand s).muR = s.muR := rfl
@[simp] theorem illegalCommand_recipR (s : State) : (illegalCommand s).recipR = s.recipR := rfl
@[simp] theorem illegalCommand_keyr (s : State) : (illegalCommand s).keyr = s.keyr := rfl
@[simp] theorem illegalCommand_latOp (s : State) : (illegalCommand s).latOp = s.latOp := rfl
@[simp] theorem illegalCommand_latPoly (s : State) : (illegalCommand s).latPoly = s.latPoly := rfl
@[simp] theorem illegalCommand_latOpnd (s : State) : (illegalCommand s).latOpnd = s.latOpnd := rfl
@[simp] theorem illegalCommand_program (s : State) : (illegalCommand s).program = s.program := rfl
@[simp] theorem illegalCommand_replies (s : State) : (illegalCommand s).replies = s.replies := rfl
@[simp] theorem illegalCommand_schedule (s : State) : (illegalCommand s).schedule = s.schedule := rfl

@[simp] theorem statusWrite_status (v : Word) (s : State) : (statusWrite v s).status = s.status.clearOnes v := rfl
@[simp] theorem statusWrite_poly (v : Word) (s : State) : (statusWrite v s).poly = s.poly := rfl
@[simp] theorem statusWrite_operand (v : Word) (s : State) : (statusWrite v s).operand = s.operand := rfl
@[simp] theorem statusWrite_result (v : Word) (s : State) : (statusWrite v s).result = s.result := rfl
@[simp] theorem statusWrite_muR (v : Word) (s : State) : (statusWrite v s).muR = s.muR := rfl
@[simp] theorem statusWrite_recipR (v : Word) (s : State) : (statusWrite v s).recipR = s.recipR := rfl
@[simp] theorem statusWrite_keyr (v : Word) (s : State) : (statusWrite v s).keyr = s.keyr := rfl
@[simp] theorem statusWrite_latOp (v : Word) (s : State) : (statusWrite v s).latOp = s.latOp := rfl
@[simp] theorem statusWrite_latPoly (v : Word) (s : State) : (statusWrite v s).latPoly = s.latPoly := rfl
@[simp] theorem statusWrite_latOpnd (v : Word) (s : State) : (statusWrite v s).latOpnd = s.latOpnd := rfl
@[simp] theorem statusWrite_program (v : Word) (s : State) : (statusWrite v s).program = s.program := rfl
@[simp] theorem statusWrite_replies (v : Word) (s : State) : (statusWrite v s).replies = s.replies := rfl
@[simp] theorem statusWrite_schedule (v : Word) (s : State) : (statusWrite v s).schedule = s.schedule := rfl

@[simp] theorem complete_status (s : State) : (complete s).status = s.status.complete := rfl
@[simp] theorem complete_poly (s : State) : (complete s).poly = s.poly := rfl
@[simp] theorem complete_operand (s : State) : (complete s).operand = s.operand := rfl
@[simp] theorem complete_result (s : State) : (complete s).result = s.result := rfl
@[simp] theorem complete_muR (s : State) : (complete s).muR = s.muR := rfl
@[simp] theorem complete_recipR (s : State) : (complete s).recipR = s.recipR := rfl
@[simp] theorem complete_keyr (s : State) : (complete s).keyr = s.keyr := rfl
@[simp] theorem complete_latOp (s : State) : (complete s).latOp = s.latOp := rfl
@[simp] theorem complete_latPoly (s : State) : (complete s).latPoly = s.latPoly := rfl
@[simp] theorem complete_latOpnd (s : State) : (complete s).latOpnd = s.latOpnd := rfl
@[simp] theorem complete_program (s : State) : (complete s).program = s.program := rfl
@[simp] theorem complete_replies (s : State) : (complete s).replies = s.replies := rfl
@[simp] theorem complete_schedule (s : State) : (complete s).schedule = s.schedule := rfl

@[simp] theorem completeWith_status (v : Word) (s : State) : (completeWith v s).status = s.status.complete := rfl
@[simp] theorem completeWith_poly (v : Word) (s : State) : (completeWith v s).poly = s.poly := rfl
@[simp] theorem completeWith_operand (v : Word) (s : State) : (completeWith v s).operand = s.operand := rfl
@[simp] theorem completeWith_result (v : Word) (s : State) : (completeWith v s).result = v := rfl
@[simp] theorem completeWith_muR (v : Word) (s : State) : (completeWith v s).muR = s.muR := rfl
@[simp] theorem completeWith_recipR (v : Word) (s : State) : (completeWith v s).recipR = s.recipR := rfl
@[simp] theorem completeWith_keyr (v : Word) (s : State) : (completeWith v s).keyr = s.keyr := rfl
@[simp] theorem completeWith_latOp (v : Word) (s : State) : (completeWith v s).latOp = s.latOp := rfl
@[simp] theorem completeWith_latPoly (v : Word) (s : State) : (completeWith v s).latPoly = s.latPoly := rfl
@[simp] theorem completeWith_latOpnd (v : Word) (s : State) : (completeWith v s).latOpnd = s.latOpnd := rfl
@[simp] theorem completeWith_program (v : Word) (s : State) : (completeWith v s).program = s.program := rfl
@[simp] theorem completeWith_replies (v : Word) (s : State) : (completeWith v s).replies = s.replies := rfl
@[simp] theorem completeWith_schedule (v : Word) (s : State) : (completeWith v s).schedule = s.schedule := rfl

@[simp] theorem dropTurn_status (s : State) : (dropTurn s).status = s.status := rfl
@[simp] theorem dropTurn_poly (s : State) : (dropTurn s).poly = s.poly := rfl
@[simp] theorem dropTurn_operand (s : State) : (dropTurn s).operand = s.operand := rfl
@[simp] theorem dropTurn_result (s : State) : (dropTurn s).result = s.result := rfl
@[simp] theorem dropTurn_muR (s : State) : (dropTurn s).muR = s.muR := rfl
@[simp] theorem dropTurn_recipR (s : State) : (dropTurn s).recipR = s.recipR := rfl
@[simp] theorem dropTurn_keyr (s : State) : (dropTurn s).keyr = s.keyr := rfl
@[simp] theorem dropTurn_latOp (s : State) : (dropTurn s).latOp = s.latOp := rfl
@[simp] theorem dropTurn_latPoly (s : State) : (dropTurn s).latPoly = s.latPoly := rfl
@[simp] theorem dropTurn_latOpnd (s : State) : (dropTurn s).latOpnd = s.latOpnd := rfl
@[simp] theorem dropTurn_program (s : State) : (dropTurn s).program = s.program := rfl
@[simp] theorem dropTurn_replies (s : State) : (dropTurn s).replies = s.replies := rfl
@[simp] theorem dropTurn_schedule (s : State) : (dropTurn s).schedule = s.schedule.tail := rfl

@[simp] theorem resetTurn_status (s : State) : (resetTurn s).status = State.reset.status := rfl
@[simp] theorem resetTurn_poly (s : State) : (resetTurn s).poly = State.reset.poly := rfl
@[simp] theorem resetTurn_operand (s : State) : (resetTurn s).operand = State.reset.operand := rfl
@[simp] theorem resetTurn_result (s : State) : (resetTurn s).result = State.reset.result := rfl
@[simp] theorem resetTurn_muR (s : State) : (resetTurn s).muR = State.reset.muR := rfl
@[simp] theorem resetTurn_recipR (s : State) : (resetTurn s).recipR = State.reset.recipR := rfl
@[simp] theorem resetTurn_keyr (s : State) : (resetTurn s).keyr = State.reset.keyr := rfl
@[simp] theorem resetTurn_latOp (s : State) : (resetTurn s).latOp = State.reset.latOp := rfl
@[simp] theorem resetTurn_latPoly (s : State) : (resetTurn s).latPoly = State.reset.latPoly := rfl
@[simp] theorem resetTurn_latOpnd (s : State) : (resetTurn s).latOpnd = State.reset.latOpnd := rfl
@[simp] theorem resetTurn_program (s : State) : (resetTurn s).program = s.program := rfl
@[simp] theorem resetTurn_replies (s : State) : (resetTurn s).replies = s.replies := rfl
@[simp] theorem resetTurn_schedule (s : State) : (resetTurn s).schedule = s.schedule := rfl

@[simp] theorem state_reset_status : State.reset.status = Status.reset := rfl
@[simp] theorem state_reset_poly : State.reset.poly = 0 := rfl
@[simp] theorem state_reset_operand : State.reset.operand = 0 := rfl
@[simp] theorem state_reset_result : State.reset.result = 0 := rfl
@[simp] theorem state_reset_muR : State.reset.muR = 0 := rfl
@[simp] theorem state_reset_recipR : State.reset.recipR = 0 := rfl
@[simp] theorem state_reset_keyr : State.reset.keyr = Vector.replicate 16 0 := rfl
@[simp] theorem state_reset_latOp : State.reset.latOp = 0 := rfl
@[simp] theorem state_reset_latPoly : State.reset.latPoly = 0 := rfl
@[simp] theorem state_reset_latOpnd : State.reset.latOpnd = 0 := rfl
@[simp] theorem state_reset_program : State.reset.program = [] := rfl
@[simp] theorem state_reset_replies : State.reset.replies = [] := rfl
@[simp] theorem state_reset_schedule : State.reset.schedule = [] := rfl

end Sys2Proof.Laws
end

