-- ==== Sys2Proof/Laws/Ops.lean ====
section
/-! SUPPORT. One lemma per shared operation that says once everything the operation can do; proofs cite these instead of unfolding
the operations. -/

namespace Sys2Proof.Laws

open Machine

/-! ## The register map -/

theorem regAt_regOffset (r : Reg) : regAt (regOffset r) = some r := by
  cases r with
  | keyr i => revert i; decide
  | expr i => revert i; decide
  | cmd => rfl
  | status => rfl
  | poly => rfl
  | operand => rfl
  | result => rfl
  | muR => rfl
  | recipR => rfl

theorem regAt_eq_some {off : Nat} {r : Reg} (h : regAt off = some r) : off = regOffset r := by
  unfold regAt at h
  repeat' split at h
  all_goals first
    | (injection h with h; subst h; simp only [regOffset]; omega)
    | (injection h with h; subst h; simp only [regOffset, Fin.ofNat]; omega)
    | cases h

theorem regAt_eq_some_iff {off : Nat} {r : Reg} : regAt off = some r ↔ off = regOffset r :=
  ⟨regAt_eq_some, fun h => h ▸ regAt_regOffset r⟩

theorem regOffset_aligned (r : Reg) : regOffset r % 8 = 0 := by
  cases r <;> simp only [regOffset] <;> omega

theorem regOffset_lt_window (r : Reg) : regOffset r < Config.window := by
  cases r <;> simp only [regOffset, Config.window] <;> omega

theorem regOffset_injective {r q : Reg} (h : regOffset r = regOffset q) : r = q := by
  have := regAt_regOffset r
  rw [h, regAt_regOffset] at this
  injection this with this
  exact this.symm

/-- A legal read is an 8-byte read at a register (20_memory.md R51). -/
theorem legalReg_read_iff {off n : Nat} {r : Reg} :
    legalReg .read off n = some r ↔ n = 8 ∧ off = regOffset r := by
  unfold legalReg
  constructor
  · intro h
    split at h
    · next hc =>
      cases hr : regAt off with
      | none => simp [hr] at h
      | some q =>
        simp only [hr, Option.some.injEq] at h
        exact ⟨hc.1, regAt_eq_some (h ▸ hr)⟩
    · cases h
  · rintro ⟨rfl, rfl⟩
    simp [regAt_regOffset, regOffset_aligned, regOffset_lt_window]

/-- A legal write is an 8-byte write at a writable register (R51). -/
theorem legalReg_write_iff {off n : Nat} {r : Reg} :
    legalReg .write off n = some r ↔ n = 8 ∧ off = regOffset r ∧ regWritable r = true := by
  unfold legalReg
  constructor
  · intro h
    split at h
    · next hc =>
      cases hr : regAt off with
      | none => simp [hr] at h
      | some q =>
        simp only [hr] at h
        split at h
        · next hw =>
          simp only [Option.some.injEq] at h
          subst h
          exact ⟨hc.1, regAt_eq_some hr, hw⟩
        · cases h
    · cases h
  · rintro ⟨rfl, rfl, hw⟩
    simp [regAt_regOffset, regOffset_aligned, regOffset_lt_window, hw]

/-! ## Bus accesses -/

/-- The three outcomes of a legal CMD write (40_command_control.md R90). -/
theorem cmdWrite_cases (w : Word) (s : State) :
    (s.status.busy = true ∧ cmdWrite w s = s.flag .overrun) ∨
    (s.status.busy = false ∧ (∃ i, decode w = .command i) ∧ cmdWrite w s = accept w s) ∨
    (s.status.busy = false ∧ (∃ why, decode w = .illegal why) ∧ cmdWrite w s = illegalCommand s) := by
  unfold cmdWrite
  cases hb : s.status.busy
  · cases hd : decode w with
    | command i => exact .inr (.inl ⟨rfl, ⟨i, rfl⟩, by simp⟩)
    | illegal why => exact .inr (.inr ⟨rfl, ⟨why, rfl⟩, by simp⟩)
  · exact .inl ⟨rfl, by simp⟩

/-- Everything a bus access can do (20_memory.md R52 to R54). -/
theorem busAccess_cases (a : Access) (s : State) :
    (∃ r, a = .read (regOffset r) 8 ∧ busAccess a s = (s, some { bytes := 8, data := readReg r s })) ∨
    (∃ off n, a = .read off n ∧ legalReg .read off n = none ∧
      busAccess a s = (s.flag .accErr, some { bytes := n, data := 0 })) ∨
    (∃ off n v, a = .write off n v ∧ legalReg .write off n = none ∧ busAccess a s = (s.flag .accErr, none)) ∨
    (∃ w, a = .write 0x000 8 w ∧ busAccess a s = (cmdWrite w s, none)) ∨
    (∃ v, a = .write 0x008 8 v ∧ busAccess a s = (statusWrite v s, none)) ∨
    (∃ v, a = .write 0x010 8 v ∧ busAccess a s = ({ s with poly := v }, none)) ∨
    (∃ v, a = .write 0x018 8 v ∧ busAccess a s = ({ s with operand := v }, none)) := by
  cases a with
  | read off n =>
    cases hl : legalReg .read off n with
    | none => exact .inr (.inl ⟨off, n, rfl, hl, by simp [busAccess, busRead, hl]⟩)
    | some r =>
      obtain ⟨rfl, rfl⟩ := legalReg_read_iff.mp hl
      exact .inl ⟨r, rfl, by simp [busAccess, busRead, hl]⟩
  | write off n v =>
    cases hl : legalReg .write off n with
    | none => exact .inr (.inr (.inl ⟨off, n, v, rfl, hl, by simp [busAccess, busWrite, hl]⟩))
    | some r =>
      obtain ⟨rfl, rfl, hw⟩ := legalReg_write_iff.mp hl
      have hb : busAccess (.write (regOffset r) 8 v) s = (writeReg r v s, none) := by
        simp [busAccess, busWrite, hl]
      cases r with
      | cmd => exact .inr (.inr (.inr (.inl ⟨v, rfl, hb⟩)))
      | status => exact .inr (.inr (.inr (.inr (.inl ⟨v, rfl, hb⟩))))
      | poly => exact .inr (.inr (.inr (.inr (.inr (.inl ⟨v, rfl, hb⟩)))))
      | operand => exact .inr (.inr (.inr (.inr (.inr (.inr ⟨v, rfl, hb⟩)))))
      | result => cases hw
      | muR => cases hw
      | recipR => cases hw
      | keyr i => cases hw
      | expr i => cases hw

/-- No bus access changes a result register, and none changes the host's own fields. -/
theorem busAccess_keeps (a : Access) (s : State) :
    (busAccess a s).1.result = s.result ∧ (busAccess a s).1.muR = s.muR ∧ (busAccess a s).1.recipR = s.recipR ∧
    (busAccess a s).1.keyr = s.keyr ∧ (busAccess a s).1.program = s.program ∧
    (busAccess a s).1.replies = s.replies ∧ (busAccess a s).1.schedule = s.schedule := by
  obtain ⟨r, -, h⟩ | ⟨_, _, -, -, h⟩ | ⟨_, _, _, -, -, h⟩ | ⟨w, -, h⟩ | ⟨_, -, h⟩ | ⟨_, -, h⟩ | ⟨_, -, h⟩ :=
    busAccess_cases a s
  case inr.inr.inr.inl =>
    rw [h]
    obtain ⟨-, e⟩ | ⟨-, -, e⟩ | ⟨-, -, e⟩ := cmdWrite_cases w s <;> simp [e]
  all_goals simp [h]

/-! ## Turns -/

/-- A host turn is one bus access on the GCE's registers; beside it only the host's program and temporaries change. -/
theorem hostTurn_cases (s : State) :
    (hostAccess s = none ∧ hostTurn s = s) ∨
    ∃ a prog reps, hostAccess s = some a ∧
      hostTurn s = { (busAccess a s).1 with program := prog, replies := reps } := by
  unfold hostAccess hostTurn
  cases hp : s.program with
  | nil => exact .inl ⟨rfl, rfl⟩
  | cons st rest =>
    right
    refine ⟨stmtAccess s.replies st, ?_⟩
    unfold hostAdvance
    simp only
    split
    · exact ⟨rest, (busAccess (stmtAccess s.replies st) s).1.replies, trivial, rfl⟩
    · split
      · exact ⟨rest, _, trivial, rfl⟩
      · exact ⟨_, _, trivial, rfl⟩

/-- A host turn changes no result register and takes no turn off the schedule. -/
theorem hostTurn_keeps (s : State) :
    (hostTurn s).result = s.result ∧ (hostTurn s).muR = s.muR ∧ (hostTurn s).recipR = s.recipR ∧
    (hostTurn s).keyr = s.keyr ∧ (hostTurn s).schedule = s.schedule := by
  obtain ⟨-, h⟩ | ⟨a, _, _, -, h⟩ := hostTurn_cases s
  · simp [h]
  · have := busAccess_keeps a s
    simp [h, this]

/-- On STATUS, the operands and the latches a host turn is its bus access. -/
theorem hostTurn_registers (s : State) :
    hostTurn s = s ∨ ∃ a, hostAccess s = some a ∧
      (hostTurn s).status = (busAccess a s).1.status ∧ (hostTurn s).poly = (busAccess a s).1.poly ∧
      (hostTurn s).operand = (busAccess a s).1.operand ∧ (hostTurn s).latOp = (busAccess a s).1.latOp ∧
      (hostTurn s).latPoly = (busAccess a s).1.latPoly ∧ (hostTurn s).latOpnd = (busAccess a s).1.latOpnd := by
  obtain ⟨-, h⟩ | ⟨a, _, _, ha, h⟩ := hostTurn_cases s
  · exact .inl h
  · exact .inr ⟨a, ha, by simp [h]⟩

/-- Every command answers a next state, in every state (60_exceptions.md R152). -/
theorem exec_next (i : Instr) (s : State) : ∃ t, exec i s = .next t := by
  cases i <;> exact ⟨_, rfl⟩

/-- Everything a completion can do (40_command_control.md R93). -/
theorem exec_cases {i : Instr} {s t : State} (h : exec i s = .next t) :
    (i = .nop ∧ t = complete s) ∨
    (∃ v, (i = .rev ∧ v = rev64 s.latOpnd ∨ i = .mu ∧ v = muGen s.latPoly ∨
        i = .key ∧ v = keyGenFast s.latOpnd s.latPoly ∨ i = .recip ∧ v = recipGen s.latPoly) ∧ t = completeWith v s) ∨
    (i = .cset ∧
      t = complete { s with keyr := keySet s.latPoly, muR := muGen s.latPoly, recipR := recipGen s.latPoly }) := by
  cases i <;> injection h with h <;> subst h
  · exact .inl ⟨rfl, rfl⟩
  · exact .inr (.inl ⟨_, .inl ⟨rfl, rfl⟩, rfl⟩)
  · exact .inr (.inl ⟨_, .inr (.inl ⟨rfl, rfl⟩), rfl⟩)
  · exact .inr (.inl ⟨_, .inr (.inr (.inl ⟨rfl, rfl⟩)), rfl⟩)
  · exact .inr (.inl ⟨_, .inr (.inr (.inr ⟨rfl, rfl⟩)), rfl⟩)
  · exact .inr (.inr ⟨rfl, rfl⟩)

/-- Everything a step can do (00_scope.md R12): a host turn, an engine turn that has no command, a completion, or reset. -/
theorem step_cases {s t : State} (h : step s = .next t) :
    (nextTurn s = .host ∧ t = hostTurn (dropTurn s)) ∨
    (nextTurn s = .engine ∧ s.status.busy = false ∧ t = dropTurn s) ∨
    (nextTurn s = .engine ∧ s.status.busy = true ∧ ∃ i, decodeOp s.latOp = some i ∧ exec i (dropTurn s) = .next t) ∨
    (nextTurn s = .reset ∧ t = resetTurn (dropTurn s)) := by
  unfold step takeTurn at h
  cases hn : nextTurn s with
  | host => rw [hn] at h; injection h with h; exact .inl ⟨rfl, h.symm⟩
  | reset => rw [hn] at h; injection h with h; exact .inr (.inr (.inr ⟨rfl, h.symm⟩))
  | engine =>
    rw [hn] at h
    simp only [engineTurn, dropTurn_status, dropTurn_latOp] at h
    cases hb : s.status.busy
    · simp only [hb, Bool.false_eq_true, if_false] at h
      injection h with h
      exact .inr (.inl ⟨rfl, rfl, h.symm⟩)
    · simp only [hb, if_true] at h
      cases hd : decodeOp s.latOp with
      | none => rw [hd] at h; cases h
      | some i => rw [hd] at h; exact .inr (.inr (.inl ⟨rfl, rfl, i, rfl, h⟩))

/-- A step at the host's turn. -/
theorem step_of_host {s : State} (h : nextTurn s = .host) : step s = .next (hostTurn (dropTurn s)) := by
  unfold step; rw [h]; rfl

/-- A step at a reset turn. -/
theorem step_of_reset {s : State} (h : nextTurn s = .reset) : step s = .next (resetTurn (dropTurn s)) := by
  unfold step; rw [h]; rfl

end Sys2Proof.Laws
end

