-- ==== Sys2Proof/Laws/PerInstr.lean ====
section
/-! SUPPORT. Statements made for every command, one lemma per constructor. -/

namespace Sys2Proof.Laws.RoundTrip

/-- The decoder reads the encoder's word and its bytes back, and the word's OP field is the command's number (30_encoding.md R72,
R73). -/
def Statement (i : Instr) : Prop :=
  i.wellFormed = true ∧ decode (encode i) = .command i ∧ decodeBytes (encodeBytes i) = some (.command i) ∧
    opField (encode i) = i.opcode

theorem nop : Statement .nop := by unfold Statement; decide +kernel
theorem rev : Statement .rev := by unfold Statement; decide +kernel
theorem mu : Statement .mu := by unfold Statement; decide +kernel
theorem key : Statement .key := by unfold Statement; decide +kernel
theorem recip : Statement .recip := by unfold Statement; decide +kernel
theorem cset : Statement .cset := by unfold Statement; decide +kernel

end Sys2Proof.Laws.RoundTrip
end

