-- ==== Sys2Proof/Laws/Runs.lean ====
section
/-! SUPPORT. Runs of the machine: the unfolding of `core.run`, and the one induction that carries an invariant along a run. -/

namespace Sys2Proof.Laws

open Machine

@[simp] theorem run_zero (s : State) : core.run 0 s = .next s := rfl

theorem coreRun_of_next (M : Host.Core) (k : Nat) (s t : M.State) (h : M.step s = .next t) :
    M.run (k + 1) s = M.run k t := by simp only [Host.Core.run, h]

theorem coreRun_of_fault (M : Host.Core) (k : Nat) (s : M.State) (r : M.Fault) (h : M.step s = .fault r) :
    M.run (k + 1) s = .fault r := by simp only [Host.Core.run, h]

theorem coreRun_of_refused (M : Host.Core) (k : Nat) (s : M.State) (r : M.Refusal) (h : M.step s = .refused r) :
    M.run (k + 1) s = .refused r := by simp only [Host.Core.run, h]

theorem run_succ_of_step {s t : State} (k : Nat) (h : step s = .next t) : core.run (k + 1) s = core.run k t :=
  coreRun_of_next core k s t h

theorem run_succ_of_fault {s : State} {r : Fault} (k : Nat) (h : step s = .fault r) :
    core.run (k + 1) s = .fault r := coreRun_of_fault core k s r h

theorem run_succ_of_refused {s : State} {r : Refusal} (k : Nat) (h : step s = .refused r) :
    core.run (k + 1) s = .refused r := coreRun_of_refused core k s r h

/-- A run of `j` steps and one of `k` steps after it are one run. -/
theorem run_add {s t : State} (j k : Nat) (h : core.run j s = .next t) : core.run (j + k) s = core.run k t := by
  induction j generalizing s with
  | zero => injection h with h; subst h; simp
  | succ j ih =>
    cases hs : step s with
    | next u =>
      have hu : core.run j u = .next t := (run_succ_of_step j hs) ▸ h
      rw [Nat.succ_add, run_succ_of_step _ hs]
      exact ih hu
    | fault r => rw [run_succ_of_fault j hs] at h; cases h
    | refused r => rw [run_succ_of_refused j hs] at h; cases h

/-- If every state of `P` steps to a state of `P`, then every run from a state of `P` stops nowhere and stays in `P`. -/
theorem run_of_invariant {P : State → Prop} (hstep : ∀ s, P s → ∃ t, step s = .next t ∧ P t) (n : Nat) :
    ∀ s, P s → ∃ t, core.run n s = .next t ∧ P t := by
  induction n with
  | zero => exact fun s h => ⟨s, rfl, h⟩
  | succ n ih =>
    intro s h
    obtain ⟨u, hu, hP⟩ := hstep s h
    rw [run_succ_of_step n hu]
    exact ih u hP

end Sys2Proof.Laws
end

