-- ==== Sys2Proof/Laws/Units.lean ====
section
/-! SUPPORT. The small lemmas of the functional units and of STATUS read as a word: what each bit is. -/

namespace Sys2Proof.Laws

open Machine

/-- R100, bit by bit. -/
theorem getLsbD_rev64 (v : Word) (i : Nat) : (rev64 v).getLsbD i = (decide (i < 64) && v.getLsbD (63 - i)) := by
  by_cases h : i < 64
  · rw [rev64, BitVec.getLsbD_eq_getElem h, BitVec.getElem_ofFnLE]; simp [h]
  · simp [h, BitVec.getLsbD_of_ge (rev64 v) i (by omega)]

theorem muDivide_succ (p : Word) (k : Nat) (high : Bool) (low q : Word) :
    muDivide p (k + 1) high low q =
      muDivide p k ((if high then low ^^^ p else low).getLsbD 63) ((if high then low ^^^ p else low) <<< 1)
        (if high then (q <<< 1) ||| 1 else q <<< 1) := rfl

theorem getLsbD_flagBit (b : Bool) (k i : Nat) (hk : k < 64) : (flagBit b k).getLsbD i = (decide (i = k) && b) := by
  unfold flagBit
  by_cases h : i = k
  · subst h; simp [hk]
  · by_cases h2 : i < k
    · simp [h, h2]
    · have : ¬ i - k = 0 := by omega
      simp [h, BitVec.getLsbD_ofBool, this]

/-- STATUS, bit by bit (10_state.md R24, R31). -/
theorem getLsbD_word (st : Status) (i : Nat) : st.word.getLsbD i =
    (decide (i = 0) && st.busy || decide (i = 1) && st.done || decide (i = 2) && st.illegal ||
      decide (i = 3) && st.overrun || decide (i = 4) && st.accErr ||
      decide (8 ≤ i) && st.lastop.getLsbD (i - 8)) := by
  unfold Status.word
  simp only [BitVec.getLsbD_or, getLsbD_flagBit _ _ _ (by decide : 0 < 64), getLsbD_flagBit _ _ _ (by decide : 1 < 64),
    getLsbD_flagBit _ _ _ (by decide : 2 < 64), getLsbD_flagBit _ _ _ (by decide : 3 < 64),
    getLsbD_flagBit _ _ _ (by decide : 4 < 64), BitVec.getLsbD_shiftLeft, BitVec.getLsbD_setWidth]
  congr 1
  by_cases h : 8 ≤ i
  · by_cases h2 : i < 64
    · simp [h, h2, Nat.not_lt.mpr h, show i - 8 < 64 by omega]
    · simp [h2, BitVec.getLsbD_of_ge st.lastop (i - 8) (by omega)]
  · simp [h, show i < 8 by omega]

@[simp] theorem getElem_word_zero (st : Status) : st.word[0] = st.busy := by
  rw [← BitVec.getLsbD_eq_getElem, getLsbD_word]; simp
@[simp] theorem getElem_word_one (st : Status) : st.word[1] = st.done := by
  rw [← BitVec.getLsbD_eq_getElem, getLsbD_word]; simp
@[simp] theorem getElem_word_two (st : Status) : st.word[2] = st.illegal := by
  rw [← BitVec.getLsbD_eq_getElem, getLsbD_word]; simp
@[simp] theorem getElem_word_three (st : Status) : st.word[3] = st.overrun := by
  rw [← BitVec.getLsbD_eq_getElem, getLsbD_word]; simp
@[simp] theorem getElem_word_four (st : Status) : st.word[4] = st.accErr := by
  rw [← BitVec.getLsbD_eq_getElem, getLsbD_word]; simp

@[simp] theorem opField_encode (i : Instr) : opField (encode i) = i.opcode := by cases i <;> decide

@[simp] theorem decodeOp_opcode (i : Instr) : decodeOp i.opcode = some i := by cases i <;> rfl

/-- A latch that holds a command holds one of 0x0 to 0x5 (40_command_control.md R93). -/
theorem decodeOp_isSome_iff (op : BitVec 4) : (∃ i, decodeOp op = some i) ↔ op.toNat ≤ 5 := by
  constructor
  · rintro ⟨i, h⟩
    revert h i
    revert op
    decide +kernel
  · intro h
    have : (decodeOp op).isSome = true := by revert op; decide +kernel
    exact Option.isSome_iff_exists.mp this

end Sys2Proof.Laws
end

