-- ==== Sys2Proof/Tests/Slice0.lean ====
section
/-! SUPPORT. The model's own tests. Expected values are the spec's: S<n> is 95_test_vectors.md Part 1 (the source's own vectors),
D-… its Part 2. After them, one witness per statement that has hypotheses: a state and operands that meet them all. -/

-- One test after another: each kernel evaluation would otherwise wait in a thread of its own.
set_option Elab.async false

namespace Sys2Proof.Tests

open Machine

/-- The state an outcome goes on to, if it goes on. -/
def nextOf (o : Host.Outcome State Fault Refusal) : Option State :=
  match o with
  | .next s => some s
  | .fault _ => none
  | .refused _ => none

/-- The latches as an accept of polynomial `p` and operand `v` leaves them. -/
def latched (op : BitVec 4) (p v : Word) : State :=
  { State.reset with
    status := { Status.reset with busy := true, lastop := op }
    latOp := op, latPoly := p, latOpnd := v }

/-- A state with a host program and a schedule. -/
def driven (s : State) (program : List Stmt) (schedule : List Turn) : State :=
  { s with program := program, schedule := schedule }

/-- The GCE with STATUS 0x202: a MU has completed. -/
def muDone : State := { State.reset with status := { Status.reset with done := true, lastop := 2 }, latOp := 2 }

/-- The GCE with STATUS 0x21E: every W1C bit set. -/
def allFlags : State :=
  { State.reset with
    status := { busy := false, done := true, illegal := true, overrun := true, accErr := true, lastop := 2 }, latOp := 2 }

/-- STATUS after one bus write. -/
def statusAfterWrite (off n : Nat) (v : Word) (s : State) : Word := readReg .status (busWrite off n v s)

/-- STATUS after one bus read, and the data it returned. -/
def statusAfterRead (off n : Nat) (s : State) : Word × Word :=
  (readReg .status (busRead off n s).1, (busRead off n s).2.data)

/-! ## Decoding (30_encoding.md R72), the words written out bit by bit -/

theorem test_decode_nop :
    decode 0b0000000000000000000000000000000000000000000000000000000000000000 = .command .nop := by decide +kernel
theorem test_decode_rev :
    decode 0b0000000000000000000000000000000000000000000000000000000000000001 = .command .rev := by decide +kernel
theorem test_decode_mu :
    decode 0b0000000000000000000000000000000000000000000000000000000000000010 = .command .mu := by decide +kernel
theorem test_decode_key :
    decode 0b0000000000000000000000000000000000000000000000000000000000000011 = .command .key := by decide +kernel
theorem test_decode_recip :
    decode 0b0000000000000000000000000000000000000000000000000000000000000100 = .command .recip := by decide +kernel
theorem test_decode_cset :
    decode 0b0000000000000000000000000000000000000000000000000000000000000101 = .command .cset := by decide +kernel
theorem test_decode_reserved :
    decode 0x6 = .illegal .reservedOpcode ∧ decode 0xF = .illegal .reservedOpcode ∧
    decode 0x10 = .illegal .reservedBits ∧ decode 0x8000000000000002 = .illegal .reservedBits := by decide +kernel
theorem test_decode_short_write : decodeBytes [0x02, 0, 0, 0] = none := by decide +kernel
theorem test_decodeTableWord : decodeTableWord 64 0x5 = some .cset ∧ decodeTableWord 64 0x6 = none := by decide +kernel

/-! ## Well-formedness: the one check, and a term it refuses -/

theorem test_wellFormed_refuses_unwritten_temp : (Value.temp 0).wellFormed 0 = false := by decide
theorem test_wellFormed_refuses_stmt : (Stmt.wr 8 (.reg .poly) (.temp 1)).wellFormed 1 = false := by decide
theorem test_wellFormed_refuses_program :
    programWellFormed 0 [.wr 8 (.reg .operand) (.temp 0), .rd 8 (.reg .result)] = false := by decide
theorem test_wellFormed_accepts_program :
    programWellFormed 0 [.rd 8 (.reg .result), .wr 8 (.reg .operand) (.temp 0)] = true := by decide

/-! ## The commands -/

/-- R95's example: from reset, the completion of a NOP leaves STATUS 0x002. -/
theorem test_nop_status :
    (nextOf (step (State.reset.withFetchWord 64 0x0))).map (readReg .status) = some 0x002 := by decide +kernel

/-- R101's example. -/
theorem test_rev_example :
    (nextOf (exec .rev (latched 1 0 0x0123456789ABCDEF))).map (·.result) = some 0xF7B3D591E6A2C480 := by decide +kernel
/-- D-REV. -/
theorem test_rev_polynomial :
    (nextOf (exec .rev (latched 1 0 0x42F0E1EBA9EA3693))).map (·.result) = some 0xC96C5795D7870F42 := by decide +kernel

/-- S5. -/
theorem test_mu_ecma :
    (nextOf (exec .mu (latched 2 0x42F0E1EBA9EA3693 0))).map (·.result) = some 0x9c3e466c172963d5 := by decide +kernel
/-- D-MU: bit 63 of the polynomial. -/
theorem test_mu_top_bit :
    (nextOf (exec .mu (latched 2 0x8000000000000000 7))).map (·.result) = some 0xFFFFFFFFFFFFFFFF := by decide +kernel

/-- S8. -/
theorem test_key_nvme_128 :
    (nextOf (exec .key (latched 3 0xAD93D23594C93659 128))).map (·.result) = some 0x21e9761e252621ac := by decide +kernel
/-- S6. -/
theorem test_recip_nvme :
    (nextOf (exec .recip (latched 4 0xAD93D23594C93659 0))).map (·.result) = some 0x34d926535897936b := by decide +kernel
/-- D-RECIP: the bit shifted out. -/
theorem test_recip_top_bit :
    (nextOf (exec .recip (latched 4 0x8000000000000000 0))).map (·.result) = some 0x3 := by decide +kernel

/-- S8, S9, S10: k_128, k_1088, mu and reciprocal of the NVMe polynomial; RESULT is not written. -/
theorem test_cset_nvme :
    (nextOf (exec .cset (latched 5 0xAD93D23594C93659 0))).map (fun t => (t.keyr[0], t.keyr[15], t.muR, t.recipR, t.result))
      = some (0x21e9761e252621ac, 0xa1ca681e733f9c40, 0x27ecfa329aef9f77, 0x34d926535897936b, 0) := by decide +kernel
/-- D-CSET: three of the ECMA keys. -/
theorem test_cset_ecma :
    (nextOf (exec .cset (latched 5 0x42F0E1EBA9EA3693 0))).map (fun t => (t.keyr[1], t.keyr[6], t.keyr[15]))
      = some (0xe05dd497ca393ae4, 0x081f6054a7842df4, 0x8757d71d4fcc1000) := by decide +kernel

/-! ## The frame and the window (D-FRAME) -/

theorem test_accept_mu : statusAfterWrite 0x000 8 0x2 State.reset = 0x201 := by decide +kernel
theorem test_illegal_clears_done : statusAfterWrite 0x000 8 0x7 muDone = 0x204 := by decide +kernel
theorem test_overrun_not_decoded : statusAfterWrite 0x000 8 0x9 (latched 3 0 0) = 0x309 := by decide +kernel
theorem test_accerr_before_overrun : statusAfterWrite 0x000 4 0x2 (latched 3 0 0) = 0x311 := by decide +kernel
theorem test_write_readonly : statusAfterWrite 0x118 8 0x0 State.reset = 0x010 := by decide +kernel
theorem test_w1c_one_bit : statusAfterWrite 0x008 8 0x04 allFlags = 0x21A := by decide +kernel
theorem test_w1c_ignores_others : statusAfterWrite 0x008 8 0xFFFFFFFFFFFFFFE1 allFlags = 0x21E := by decide +kernel
theorem test_read_reserved : statusAfterRead 0x040 8 State.reset = (0x010, 0x0) := by decide +kernel
theorem test_read_outside : statusAfterRead 0x200 8 State.reset = (0x010, 0x0) := by decide +kernel
theorem test_read_misaligned : statusAfterRead 0x004 8 State.reset = (0x010, 0x0) := by decide +kernel
theorem test_read_expr15 : statusAfterRead 0x178 8 State.reset = (0x000, 0x440) := by decide +kernel
theorem test_read_cmd : statusAfterRead 0x000 8 muDone = (0x202, 0x0) := by decide +kernel

/-- R78: the pseudo-instructions' bus transactions. -/
theorem test_pseudo_instructions :
    stmtAccess [] (issueStmt .cset) = .write 0x000 8 0x5 ∧ stmtAccess [] waitStmt = .read 0x008 8 ∧
    stmtAccess [] clrstatStmt = .write 0x008 8 0x1E ∧
    (keyeStmts 0x80).map (stmtAccess []) = [.write 0x018 8 0x80, .write 0x000 8 0x3, .read 0x008 8] ∧
    (revvStmts 0x1).map (stmtAccess []) = [.write 0x018 8 0x1, .write 0x000 8 0x1, .read 0x008 8] := by decide +kernel

/-! ## Witnesses: what meets the hypotheses of each statement -/

/-- A host turn whose write is `w` to offset `off`. -/
def writes (s : State) (off : Nat) (w : Word) : State := driven s [.wr 8 (.raw off) (.lit w)] [.host]

theorem witness_AccessErrorOnlySetsAccerr :
    legalReg .read 0x038 8 = none ∧ legalReg .read 0x000 4 = none ∧ legalReg .write 0x020 8 = none ∧
    legalReg .write 0x200 8 = none := by decide +kernel
theorem witness_LegalReadReturnsRegister :
    legalReg .read 0x000 8 = some .cmd ∧ legalReg .read 0x0F8 8 = some (.keyr 15) ∧
    legalReg .read 0x178 8 = some (.expr 15) := by decide +kernel
theorem witness_StatusWordLayout : readReg .status allFlags = 0x21E := by decide +kernel
theorem witness_WindowLittleEndian : (7 : Nat) < 8 ∧ regOffset (.expr 15) = 0x178 := by decide
theorem witness_RegisterWritesIdempotent : (0x018 : Nat) ∈ [0x008, 0x010, 0x018] := by decide
theorem witness_AcceptLatchesOperands : muDone.status.busy = false ∧ decode 0x5 = .command .cset := by decide +kernel
theorem witness_IllegalWordSetsIllegal :
    muDone.status.busy = false ∧ decode 0x6 = .illegal .reservedOpcode ∧ decode 0x10 = .illegal .reservedBits := by
  decide +kernel
theorem witness_OverrunDropsWord : (latched 3 0 0).status.busy = true := by decide
/-- Each flag is raised by some access: the three clauses of R154. -/
theorem witness_OneErrorFlagPerAccess :
    (busAccess (.read 0x040 8) State.reset).1.status.accErr = true ∧
    (busAccess (.write 0x000 8 0x2) (latched 3 0 0)).1.status.overrun = true ∧
    (busAccess (.write 0x000 8 0x6) State.reset).1.status.illegal = true := by decide +kernel
/-- BUSY rises at an accept, and falls at a completion and at reset. -/
theorem witness_BusyChangesOnlyByAcceptCompletionReset :
    (nextOf (step (writes State.reset 0x000 0x2))).map (·.status.busy) = some true ∧
    (nextOf (step (latched 2 0 0))).map (·.status.busy) = some false ∧
    (nextOf (step (driven (latched 2 0 0) [] [.reset]))).map (·.status.busy) = some false := by decide +kernel
/-- DONE rises at a completion, and falls at an accept, an illegal word, a W1C write and reset. -/
theorem witness_DoneChangesOnlyAsStated :
    (nextOf (step (latched 2 0 0))).map (·.status.done) = some true ∧
    (nextOf (step (writes muDone 0x000 0x1))).map (·.status.done) = some false ∧
    (nextOf (step (writes muDone 0x000 0xF))).map (·.status.done) = some false ∧
    (nextOf (step (writes muDone 0x008 0x2))).map (·.status.done) = some false ∧
    (nextOf (step (driven muDone [] [.reset]))).map (·.status.done) = some false := by decide +kernel
/-- Each error flag rises by its cause and falls by its W1C bit and by reset. -/
theorem witness_ErrorFlagsSticky :
    (nextOf (step (writes State.reset 0x000 0x6))).map (·.status.illegal) = some true ∧
    (nextOf (step (writes (latched 3 0 0) 0x000 0x6))).map (·.status.overrun) = some true ∧
    (nextOf (step (writes State.reset 0x020 0x5))).map (·.status.accErr) = some true ∧
    (nextOf (step (writes allFlags 0x008 0x1E))).map (readReg .status) = some 0x200 ∧
    (nextOf (step (driven allFlags [] [.reset]))).map (readReg .status) = some 0 := by decide +kernel
/-- A step that changes LASTOP at accept and one at reset. -/
theorem witness_LastopWrittenAtAccept :
    (nextOf (step (writes muDone 0x000 0x4))).map (·.status.lastop) = some 4 ∧
    (nextOf (step (driven muDone [] [.reset]))).map (·.status.lastop) = some 0 := by decide +kernel
/-- Steps that change POLY and OPERAND. -/
theorem witness_OperandsWrittenByHostOnly :
    (nextOf (step (writes muDone 0x010 0xAD93))).map (·.poly) = some 0xAD93 ∧
    (nextOf (step (writes muDone 0x018 0x80))).map (·.operand) = some 0x80 := by decide +kernel
/-- A step that changes RESULT, for each of the four commands that write it. -/
theorem witness_ResultWrittenByCompletion :
    (nextOf (step (latched 1 0 1))).map (·.result) = some 0x8000000000000000 ∧
    (nextOf (step (latched 2 1 0))).map (·.result) = some 1 ∧
    (nextOf (step (latched 3 0x1B 65))).map (·.result) = some 0xD800000000000000 ∧
    (nextOf (step (latched 4 0 0))).map (·.result) = some 1 := by decide +kernel
/-- A step that writes the constant set (POLY = 0: MU_R = 1, RECIP_R = 1, keys 0, R140). -/
theorem witness_ConstantSetWrittenTogether :
    (nextOf (step (latched 5 0 0))).map (fun t => (t.muR, t.recipR)) = some (1, 1) := by decide +kernel
theorem witness_LatchesWrittenAtAccept :
    (nextOf (step (writes { muDone with poly := 3, operand := 9 } 0x000 0x3))).map
      (fun t => (t.latOp, t.latPoly, t.latOpnd)) = some (3, 3, 9) := by decide +kernel
theorem witness_CommandsFrame (i : Instr) : ∃ t, exec i muDone = .next t := Laws.exec_next i muDone
/-- The first byte of POLY lies outside STATUS and outside every command's destination. -/
theorem witness_CommandsFrameWindowBytes (i : Instr) :
    (∃ t, exec i muDone = .next t) ∧
    ¬ (Config.gceBase + 0x008 ≤ Config.gceBase + 0x010 ∧ Config.gceBase + 0x010 < Config.gceBase + 0x010) ∧
    ¬ (Config.gceBase + 0x020 ≤ Config.gceBase + 0x010 ∧ Config.gceBase + 0x010 < Config.gceBase + 0x028) ∧
    ¬ (Config.gceBase + 0x028 ≤ Config.gceBase + 0x010 ∧ Config.gceBase + 0x010 < Config.gceBase + 0x038) ∧
    ¬ (Config.gceBase + 0x080 ≤ Config.gceBase + 0x010 ∧ Config.gceBase + 0x010 < Config.gceBase + 0x100) :=
  ⟨Laws.exec_next i muDone, by omega, by omega, by omega, by omega⟩
theorem witness_ResultsDependOnLatchesOnly (i : Instr) :
    State.reset.latPoly = muDone.latPoly ∧ State.reset.latOpnd = muDone.latOpnd ∧
    (∃ t, exec i State.reset = .next t) ∧ ∃ v, exec i muDone = .next v :=
  ⟨rfl, rfl, Laws.exec_next i _, Laws.exec_next i _⟩
/-- The same POLY in both latches, and EXPR[15] as the exponent. -/
theorem witness_CsetAgreesWithSingleCommands :
    (latched 2 0x1B 0).latPoly = (latched 5 0x1B 0).latPoly ∧
    (latched 3 0x1B 1088).latOpnd = readReg (.expr 15) (latched 3 0x1B 1088) := by decide +kernel
theorem witness_KeyClosedForm : 64 < (65 : Word).toNat ∧ 64 < (0xFFFFFFFFFFFFFFFF : Word).toNat := by decide
theorem witness_KeyShortCircuit : (latched 3 0x1B 64).latOpnd.toNat ≤ 64 := by decide
theorem witness_KeyCornerCases : (latched 3 0x1B 65).latOpnd = 65 ∧ (latched 3 0 1088).latPoly = 0 := by decide
theorem witness_RecipReversesPolynomial : (0 : Nat) < 64 ∧ (63 : Nat) < 64 := by decide
theorem witness_StepRunsLatchedCommand :
    nextTurn (latched 3 0 0) = .engine ∧ (latched 3 0 0).status.busy = true ∧
    decodeOp (latched 3 0 0).latOp = some .key := by decide
theorem witness_EngineIdleWithoutCommand :
    nextTurn (driven muDone [] [.engine]) = .engine ∧ (driven muDone [] [.engine]).status.busy = false := by decide
/-- A POLL whose test fails and one whose test holds; a read and a write are met alike. -/
theorem witness_HostTurnPerformsStatement :
    nextTurn (driven (latched 3 0 0) [waitStmt] [.host]) = .host ∧
    (driven (latched 3 0 0) [waitStmt] [.host]).program = [.poll .status 0x1 0x0] ∧
    readReg .status (latched 3 0 0) &&& 0x1 ≠ 0x0 ∧ readReg .status muDone &&& 0x1 = 0x0 ∧
    (driven muDone [.rd 8 (.reg .result)] []).program = [.rd 8 (.reg .result)] ∧
    nextTurn (driven muDone [.rd 8 (.reg .result)] []) = .host := by decide +kernel
theorem witness_ResetTurnResetsEverything : nextTurn (driven (latched 3 0 0) [] [.reset]) = .reset := by decide
/-- Two states that differ in a latch only. -/
theorem witness_AccessesSeeRegistersOnly : ∀ r, readReg r State.reset = readReg r { State.reset with latPoly := 1 } := by
  intro r; cases r <;> rfl
theorem witness_RaceAdmitsBothOrders :
    (latched 3 0 0).status.busy = true ∧ decodeOp (latched 3 0 0).latOp = some .key ∧
    (driven (latched 3 0 0) [issueStmt .mu] [.host, .engine]).program = [.wr 8 (.reg .cmd) (.lit 0x2)] ∧
    (driven (latched 3 0 0) [issueStmt .mu] [.engine, .host]).schedule = [.engine, .host] := by decide +kernel

/-- The latched state meets the invariant, with the constant-set registers as reset leaves them. -/
theorem latched_inv (p v : Word) : Inv (latched 3 p v) :=
  ⟨fun _ => rfl, (by decide : (3 : BitVec 4).toNat ≤ 5), rfl, .inl ⟨rfl, rfl, rfl⟩⟩

theorem witness_StepKeepsInv : Inv (latched 3 0 0) ∧ (nextOf (step (latched 3 0 0))).isSome = true :=
  ⟨latched_inv 0 0, by decide +kernel⟩
/-- A state of the invariant, and a state outside it whose step is the one stop of the model. -/
theorem witness_NothingStopsTheMachine :
    Inv (latched 3 0 0) ∧ step (latched 6 0 0) = .fault (.latchHoldsNoCommand 6) := ⟨latched_inv 0 0, rfl⟩
theorem witness_CommandInFlightEnds : Inv (latched 3 0 0) ∧ (latched 3 0 0).status.busy = true := ⟨latched_inv 0 0, rfl⟩
theorem witness_CommandInFlightUndisturbed :
    (latched 3 0 0).status.busy = true ∧ decodeOp (latched 3 0 0).latOp = some .key ∧
    (∃ u, exec .key (driven (latched 3 0 0) [issueStmt .mu] [.host, .host, .engine]) = .next u) ∧
    (driven (latched 3 0 0) [issueStmt .mu] [.host, .host, .engine]).schedule
      = List.replicate 2 .host ++ .engine :: [] := ⟨rfl, rfl, Laws.exec_next _ _, rfl⟩
/-- The three cases of R178: a legal word, an illegal word, an illegal access, from a state with DONE = 1 left over. -/
theorem witness_CompletionCheck :
    muDone.status.busy = false ∧ muDone.status.illegal = false ∧ muDone.status.overrun = false ∧
    muDone.status.accErr = false ∧
    (∀ turn ∈ (driven muDone [issueStmt .mu, waitStmt] [.engine, .host, .host]).schedule, turn ≠ .reset) ∧
    (driven muDone [issueStmt .mu, waitStmt] [.engine, .host, .host]).program
      = [.wr 8 (.reg .cmd) (.lit 0x2), .poll .status 0x1 0x0] ∧
    decode 0x2 = .command .mu ∧ decode 0x6 = .illegal .reservedOpcode ∧ (4 : Nat) ≠ 8 := by decide +kernel
theorem witness_ResetSetToldApart : Inv (latched 3 0 0) ∧ (latched 3 0 0).muR = 0 := ⟨latched_inv 0 0, rfl⟩

/-! ## The slowest test stands last -/

/-- D-KEY: the largest exponent. -/
theorem test_key_ecma_largest_exponent :
    (nextOf (exec .key (latched 3 0x42F0E1EBA9EA3693 0xFFFFFFFFFFFFFFFF))).map (·.result)
      = some 0xDBDB166A7F6AA5EC := by decide +kernel

end Sys2Proof.Tests
end

section
/-! PROOFS. The scope rules (00_scope.md): a functional unit is a function of the latched operands. -/

namespace Sys2Proof.Laws

open Machine

/-- What a command's unit puts into RESULT, from lat.POLY `p` and lat.OPND `v` (00_scope.md R9): `none` for NOP and CSET, which
leave RESULT alone (R95, R140). -/
def unitResult (i : Instr) (p v : Word) : Option Word :=
  match i with
  | .nop => none
  | .rev => some (rev64 v)
  | .mu => some (muGen p)
  | .key => some (keyGenFast v p)
  | .recip => some (recipGen p)
  | .cset => none

/-- RESULT after a completion: the unit's result, or the old RESULT for a command without one (R93, R34). -/
theorem exec_result {i : Instr} {s t : State} (h : exec i s = .next t) :
    t.result = (unitResult i s.latPoly s.latOpnd).getD s.result := by
  obtain ⟨rfl, rfl⟩ | ⟨v, hv, rfl⟩ | ⟨rfl, rfl⟩ := exec_cases h
  · rfl
  · obtain ⟨rfl, rfl⟩ | ⟨rfl, rfl⟩ | ⟨rfl, rfl⟩ | ⟨rfl, rfl⟩ := hv <;> rfl
  · rfl

/-- Every command but NOP and CSET has a result of its own. -/
theorem exists_unitResult {i : Instr} (hnop : i ≠ .nop) (hcset : i ≠ .cset) (p v : Word) :
    ∃ r, unitResult i p v = some r := by
  cases i with
  | nop => exact absurd rfl hnop
  | cset => exact absurd rfl hcset
  | rev | mu | key | recip => exact ⟨_, rfl⟩

/-- A completion of CSET leaves the whole constant set of lat.POLY (R140). -/
theorem exec_cset_constantSetOf {s t : State} (h : exec .cset s = .next t) : ConstantSetOf s.latPoly t := by
  injection h with h
  subst h
  exact ⟨rfl, rfl, rfl⟩

/-- Settles O36: both RESULTs are the unit's result for the common latches, and both constant sets are that of the common
lat.POLY. -/
theorem resultsDependOnLatchesOnly : Obligations.ResultsDependOnLatchesOnly := by
  intro i s u t v hpoly hopnd ht hv
  refine ⟨fun hnop hcset => ?_, ?_⟩
  · obtain ⟨r, hr⟩ := exists_unitResult hnop hcset u.latPoly u.latOpnd
    rw [exec_result ht, exec_result hv, hpoly, hopnd, hr, Option.getD_some, Option.getD_some]
  · rintro rfl
    obtain ⟨hmu, hrecip, hkeyr⟩ := exec_cset_constantSetOf ht
    obtain ⟨hmu', hrecip', hkeyr'⟩ := exec_cset_constantSetOf hv
    rw [hmu, hmu', hrecip, hrecip', hkeyr, hkeyr', hpoly]
    exact ⟨rfl, rfl, rfl⟩

end Sys2Proof.Laws
end

section
/-! PROOFS. The architectural state (10_state.md): what a step can do to the registers, and from it who changes each register. -/

namespace Sys2Proof.Laws

open Machine

/-! ## Everything a step can do to the registers -/

/-- The access that the host performs next is illegal (20_memory.md R51). -/
def HostAccessIllegal (s : State) : Prop :=
  (∃ off n, hostAccess s = some (.read off n) ∧ legalReg .read off n = none) ∨
    ∃ off n v, hostAccess s = some (.write off n v) ∧ legalReg .write off n = none

/-- `StepEffect s u`: the rules let a step from `s` put the registers, flags and latches at the values they have in `u` (10_state.md
R21). The host's own fields of `u` mean nothing here. -/
inductive StepEffect (s : State) : State → Prop
  /-- A legal read (R53), a host without a statement, or an engine without a command. -/
  | unchanged : StepEffect s s
  /-- R52. -/
  | illegalAccess (hturn : nextTurn s = .host) (haccess : HostAccessIllegal s) : StepEffect s (s.flag .accErr)
  /-- R94. -/
  | overrun {w : Word} (hturn : nextTurn s = .host) (haccess : hostAccess s = some (.write 0x000 8 w))
      (hbusy : s.status.busy = true) : StepEffect s (s.flag .overrun)
  /-- R91. -/
  | accept {w : Word} {i : Instr} (hturn : nextTurn s = .host) (haccess : hostAccess s = some (.write 0x000 8 w))
      (hbusy : s.status.busy = false) (hdecode : decode w = .command i) : StepEffect s (accept w s)
  /-- R92. -/
  | illegalWord {w : Word} {why : IllegalWord} (hturn : nextTurn s = .host)
      (haccess : hostAccess s = some (.write 0x000 8 w)) (hbusy : s.status.busy = false)
      (hdecode : decode w = .illegal why) : StepEffect s (illegalCommand s)
  /-- R96. -/
  | statusWrite {v : Word} (hturn : nextTurn s = .host) (haccess : hostAccess s = some (.write 0x008 8 v)) :
      StepEffect s (statusWrite v s)
  /-- R97, POLY. -/
  | polyWrite {v : Word} (hturn : nextTurn s = .host) (haccess : hostAccess s = some (.write 0x010 8 v)) :
      StepEffect s { s with poly := v }
  /-- R97, OPERAND. -/
  | operandWrite {v : Word} (hturn : nextTurn s = .host) (haccess : hostAccess s = some (.write 0x018 8 v)) :
      StepEffect s { s with operand := v }
  /-- R95. -/
  | completeNop (hturn : nextTurn s = .engine) (hbusy : s.status.busy = true)
      (hop : decodeOp s.latOp = some .nop) : StepEffect s (complete s)
  /-- R93, for the commands that write RESULT. -/
  | completeResult {i : Instr} {r : Word} (hturn : nextTurn s = .engine) (hbusy : s.status.busy = true)
      (hop : decodeOp s.latOp = some i) (hresult : unitResult i s.latPoly s.latOpnd = some r) :
      StepEffect s (completeWith r s)
  /-- R140. -/
  | completeCset (hturn : nextTurn s = .engine) (hbusy : s.status.busy = true)
      (hop : decodeOp s.latOp = some .cset) :
      StepEffect s (complete { s with
        keyr := keySet s.latPoly, muR := muGen s.latPoly, recipR := recipGen s.latPoly })
  /-- R170, R171. -/
  | reset (hturn : nextTurn s = .reset) : StepEffect s (resetTurn s)

/-- The bus access of a host turn, as an effect on the registers (20_memory.md R52 to R54, 40_command_control.md R90). -/
theorem busAccess_effect {s : State} {a : Access} (hturn : nextTurn s = .host) (ha : hostAccess s = some a) :
    ∃ u, StepEffect s u ∧ (busAccess a (dropTurn s)).1 = { u with schedule := s.schedule.tail } := by
  obtain ⟨r, rfl, h⟩ | ⟨off, n, rfl, hl, h⟩ | ⟨off, n, v, rfl, hl, h⟩ | ⟨w, rfl, h⟩ | ⟨v, rfl, h⟩ | ⟨v, rfl, h⟩ |
    ⟨v, rfl, h⟩ := busAccess_cases a (dropTurn s) <;> rw [h]
  · exact ⟨_, .unchanged, rfl⟩
  · exact ⟨_, .illegalAccess hturn (.inl ⟨off, n, ha, hl⟩), rfl⟩
  · exact ⟨_, .illegalAccess hturn (.inr ⟨off, n, v, ha, hl⟩), rfl⟩
  · obtain ⟨hb, e⟩ | ⟨hb, ⟨i, hd⟩, e⟩ | ⟨hb, ⟨why, hd⟩, e⟩ := cmdWrite_cases w (dropTurn s) <;> rw [e]
    · exact ⟨_, .overrun hturn ha hb, rfl⟩
    · exact ⟨_, .accept hturn ha hb hd, rfl⟩
    · exact ⟨_, .illegalWord hturn ha hb hd, rfl⟩
  · exact ⟨_, .statusWrite hturn ha, rfl⟩
  · exact ⟨_, .polyWrite hturn ha, rfl⟩
  · exact ⟨_, .operandWrite hturn ha, rfl⟩

/-- A completion, as an effect on the registers (40_command_control.md R93). -/
theorem exec_effect {s t : State} {i : Instr} (hturn : nextTurn s = .engine) (hbusy : s.status.busy = true)
    (hop : decodeOp s.latOp = some i) (h : exec i (dropTurn s) = .next t) :
    ∃ u, StepEffect s u ∧ t = { u with schedule := s.schedule.tail } := by
  obtain ⟨rfl, rfl⟩ | ⟨r, hr, rfl⟩ | ⟨rfl, rfl⟩ := exec_cases h
  · exact ⟨_, .completeNop hturn hbusy hop, rfl⟩
  · refine ⟨_, .completeResult (r := r) hturn hbusy hop ?_, rfl⟩
    obtain ⟨rfl, rfl⟩ | ⟨rfl, rfl⟩ | ⟨rfl, rfl⟩ | ⟨rfl, rfl⟩ := hr <;> rfl
  · exact ⟨_, .completeCset hturn hbusy hop, rfl⟩

/-- Every step is one of the effects; beside it only the host's program and temporaries and the turns to come change. -/
theorem step_effect {s t : State} (h : step s = .next t) :
    ∃ u prog reps sched, StepEffect s u ∧ t = { u with program := prog, replies := reps, schedule := sched } := by
  obtain ⟨hturn, rfl⟩ | ⟨-, -, rfl⟩ | ⟨hturn, hbusy, i, hop, hexec⟩ | ⟨hturn, rfl⟩ := step_cases h
  · obtain ⟨-, e⟩ | ⟨a, prog, reps, ha, e⟩ := hostTurn_cases (dropTurn s)
    · exact ⟨s, _, _, _, .unchanged, e⟩
    · obtain ⟨u, heff, hu⟩ := busAccess_effect hturn ha
      exact ⟨u, prog, reps, _, heff, by rw [e, hu]⟩
  · exact ⟨s, _, _, _, .unchanged, rfl⟩
  · obtain ⟨u, heff, rfl⟩ := exec_effect hturn hbusy hop hexec
    exact ⟨u, _, _, _, heff, rfl⟩
  · exact ⟨_, _, _, _, .reset hturn, rfl⟩

/-! ## The invariant -/

/-- A legal word names one of the commands 0x0 to 0x5 (30_encoding.md R73). -/
theorem opField_le_of_decode {w : Word} {i : Instr} (h : decode w = .command i) : (opField w).toNat ≤ 5 := by
  rw [← decodeOp_isSome_iff]
  unfold decode at h
  split at h
  · split at h
    · next j hj => exact ⟨j, hj⟩
    · cases h
  · cases h

/-- Every effect keeps the invariant: the accept puts one opcode into lat.OP and LASTOP and clears DONE, a completion clears BUSY,
and only CSET and reset touch the constant set. -/
theorem StepEffect.inv {s u : State} (heff : StepEffect s u) (hinv : Inv s) : Inv u := by
  obtain ⟨hbusyDone, hlatch, hlastop, hset⟩ := hinv
  cases heff with
  | unchanged | illegalAccess | overrun | polyWrite | operandWrite => exact ⟨hbusyDone, hlatch, hlastop, hset⟩
  | accept _ _ _ hdecode => exact ⟨fun _ => rfl, opField_le_of_decode hdecode, rfl, hset⟩
  | illegalWord => exact ⟨fun _ => rfl, hlatch, hlastop, hset⟩
  | statusWrite => exact ⟨fun hbusy => by simp [hbusyDone hbusy], hlatch, hlastop, hset⟩
  | completeNop | completeResult => exact ⟨by simp, hlatch, hlastop, hset⟩
  | completeCset => exact ⟨by simp, hlatch, hlastop, .inr ⟨s.latPoly, rfl, rfl, rfl⟩⟩
  | reset => exact ⟨by simp, by simp, rfl, .inl ⟨rfl, rfl, rfl⟩⟩

/-- Settles O54: each effect keeps the invariant, which does not speak of the host's own fields. -/
theorem stepKeepsInv : Obligations.StepKeepsInv := by
  intro s t hinv h
  obtain ⟨u, _, _, _, heff, rfl⟩ := step_effect h
  obtain ⟨hbusyDone, hlatch, hlastop, hset⟩ := heff.inv hinv
  exact ⟨hbusyDone, hlatch, hlastop, hset⟩

/-! ## STATUS -/

/-- The reserved bits of STATUS, 7:5 and 63:12, read 0 (10_state.md R31). -/
theorem getLsbD_word_reserved (st : Status) {i : Nat} (h : 5 ≤ i ∧ i < 8 ∨ 12 ≤ i) : st.word.getLsbD i = false := by
  have hflags : i ≠ 0 ∧ i ≠ 1 ∧ i ≠ 2 ∧ i ≠ 3 ∧ i ≠ 4 := by omega
  have hlastop : (decide (8 ≤ i) && st.lastop.getLsbD (i - 8)) = false := by
    obtain ⟨-, hlow⟩ | hhigh := h
    · simp [Nat.not_le.mpr hlow]
    · rw [BitVec.getLsbD_of_ge _ _ (by omega), Bool.and_false]
  simp only [getLsbD_word, hlastop, hflags, decide_false, Bool.false_and, Bool.or_false]

/-- Bits 11:8 of STATUS are LASTOP (R24). -/
theorem extractLsb'_word_lastop (st : Status) : st.word.extractLsb' 8 4 = st.lastop := by
  apply BitVec.eq_of_getLsbD_eq
  intro i hi
  have hflags : 8 + i ≠ 0 ∧ 8 + i ≠ 1 ∧ 8 + i ≠ 2 ∧ 8 + i ≠ 3 ∧ 8 + i ≠ 4 := by omega
  simp [getLsbD_word, hflags, hi]

/-- A field of STATUS that lies in its reserved bits reads 0 (R31). -/
theorem extractLsb'_word_reserved (st : Status) {start len : Nat}
    (h : ∀ i, i < len → 5 ≤ start + i ∧ start + i < 8 ∨ 12 ≤ start + i) : st.word.extractLsb' start len = 0 := by
  apply BitVec.eq_of_getLsbD_eq
  intro i hi
  simp [getLsbD_word_reserved st (h i hi)]

/-- Settles O8: each flag by its own bit, the other fields by the lemmas above. -/
theorem statusWordLayout : Obligations.StatusWordLayout := by
  rintro s _ rfl
  simp only [readReg, getLsbD_word]
  refine ⟨by simp, by simp, by simp, by simp, by simp, ?_, extractLsb'_word_lastop _, ?_⟩
  · exact extractLsb'_word_reserved _ (by omega)
  · exact extractLsb'_word_reserved _ (by omega)

/-- The sticky flag that an error cause sets (60_exceptions.md R151). -/
def errorFlag (c : ErrorCause) (st : Status) : Bool :=
  match c with
  | .illegal => st.illegal
  | .overrun => st.overrun
  | .accErr => st.accErr

/-- A STATUS write clears the flag of a cause by the bit that is the cause's code (R96, R151). -/
theorem errorFlag_clearOnes (c : ErrorCause) (v : Word) (st : Status) :
    errorFlag c (st.clearOnes v) = (errorFlag c st && !v.getLsbD c.code) := by cases c <;> rfl

namespace StepEffect

variable {s u : State}

theorem busy_rises (heff : StepEffect s u) (hs : s.status.busy = false) (hu : u.status.busy = true) :
    nextTurn s = .host ∧ ∃ w i, hostAccess s = some (.write 0x000 8 w) ∧ decode w = .command i := by
  cases heff with
  | accept hturn haccess _ hdecode => exact ⟨hturn, _, _, haccess, hdecode⟩
  | _ => simp [hs] at hu

theorem busy_falls (heff : StepEffect s u) (hs : s.status.busy = true) (hu : u.status.busy = false) :
    nextTurn s = .engine ∨ nextTurn s = .reset := by
  cases heff with
  | completeNop hturn | completeResult hturn | completeCset hturn => exact .inl hturn
  | reset hturn => exact .inr hturn
  | _ => simp [hs] at hu

theorem done_rises (heff : StepEffect s u) (hs : s.status.done = false) (hu : u.status.done = true) :
    nextTurn s = .engine ∧ s.status.busy = true := by
  cases heff with
  | completeNop hturn hbusy | completeResult hturn hbusy | completeCset hturn hbusy => exact ⟨hturn, hbusy⟩
  | _ => simp [hs] at hu

theorem done_falls (heff : StepEffect s u) (hs : s.status.done = true) (hu : u.status.done = false) :
    nextTurn s = .reset ∨ (nextTurn s = .host ∧
      ((∃ w, hostAccess s = some (.write 0x000 8 w) ∧ s.status.busy = false) ∨
        ∃ v, hostAccess s = some (.write 0x008 8 v) ∧ v.getLsbD 1 = true)) := by
  cases heff with
  | accept hturn haccess hbusy | illegalWord hturn haccess hbusy => exact .inr ⟨hturn, .inl ⟨_, haccess, hbusy⟩⟩
  | statusWrite hturn haccess => exact .inr ⟨hturn, .inr ⟨_, haccess, by simpa [hs] using hu⟩⟩
  | reset hturn => exact .inl hturn
  | _ => simp [hs] at hu

theorem illegal_rises (heff : StepEffect s u) (hs : s.status.illegal = false) (hu : u.status.illegal = true) :
    nextTurn s = .host ∧ s.status.busy = false ∧
      ∃ w why, hostAccess s = some (.write 0x000 8 w) ∧ decode w = .illegal why := by
  cases heff with
  | illegalWord hturn haccess hbusy hdecode => exact ⟨hturn, hbusy, _, _, haccess, hdecode⟩
  | _ => simp [hs] at hu

theorem overrun_rises (heff : StepEffect s u) (hs : s.status.overrun = false) (hu : u.status.overrun = true) :
    nextTurn s = .host ∧ s.status.busy = true ∧ ∃ w, hostAccess s = some (.write 0x000 8 w) := by
  cases heff with
  | overrun hturn haccess hbusy => exact ⟨hturn, hbusy, _, haccess⟩
  | _ => simp [hs] at hu

theorem accErr_rises (heff : StepEffect s u) (hs : s.status.accErr = false) (hu : u.status.accErr = true) :
    nextTurn s = .host ∧ HostAccessIllegal s := by
  cases heff with
  | illegalAccess hturn haccess => exact ⟨hturn, haccess⟩
  | _ => simp [hs] at hu

/-- An error flag falls by reset or by its own bit of a STATUS write (R27, R28, R29). -/
theorem errorFlag_falls (c : ErrorCause) (heff : StepEffect s u) (hs : errorFlag c s.status = true)
    (hu : errorFlag c u.status = false) :
    nextTurn s = .reset ∨
      (nextTurn s = .host ∧ ∃ v, hostAccess s = some (.write 0x008 8 v) ∧ v.getLsbD c.code = true) := by
  cases heff with
  | statusWrite hturn haccess =>
    rw [statusWrite_status, errorFlag_clearOnes, hs] at hu
    exact .inr ⟨hturn, _, haccess, by simpa using hu⟩
  | reset hturn => exact .inl hturn
  | _ => cases c <;> simp_all [errorFlag]

/-- LASTOP and the latches move together, at an accept or at reset (R30, R37). -/
theorem latches_change (heff : StepEffect s u) :
    (u.status.lastop = s.status.lastop ∧ u.latOp = s.latOp ∧ u.latPoly = s.latPoly ∧ u.latOpnd = s.latOpnd) ∨
    (nextTurn s = .reset ∧ u = resetTurn s) ∨
    (nextTurn s = .host ∧ s.status.busy = false ∧ ∃ w i, hostAccess s = some (.write 0x000 8 w) ∧
      decode w = .command i ∧ u = Machine.accept w s) := by
  cases heff with
  | accept hturn haccess hbusy hdecode => exact .inr (.inr ⟨hturn, hbusy, _, _, haccess, hdecode, rfl⟩)
  | reset hturn => exact .inr (.inl ⟨hturn, rfl⟩)
  | _ => exact .inl ⟨rfl, rfl, rfl, rfl⟩

theorem poly_changes (heff : StepEffect s u) :
    u.poly = s.poly ∨ (nextTurn s = .reset ∧ u.poly = 0) ∨
      (nextTurn s = .host ∧ hostAccess s = some (.write 0x010 8 u.poly)) := by
  cases heff with
  | polyWrite hturn haccess => exact .inr (.inr ⟨hturn, haccess⟩)
  | reset hturn => exact .inr (.inl ⟨hturn, rfl⟩)
  | _ => exact .inl rfl

theorem operand_changes (heff : StepEffect s u) :
    u.operand = s.operand ∨ (nextTurn s = .reset ∧ u.operand = 0) ∨
      (nextTurn s = .host ∧ hostAccess s = some (.write 0x018 8 u.operand)) := by
  cases heff with
  | operandWrite hturn haccess => exact .inr (.inr ⟨hturn, haccess⟩)
  | reset hturn => exact .inr (.inl ⟨hturn, rfl⟩)
  | _ => exact .inl rfl

theorem result_changes (heff : StepEffect s u) :
    u.result = s.result ∨ (nextTurn s = .reset ∧ u.result = 0) ∨
      (nextTurn s = .engine ∧ s.status.busy = true ∧
        ∃ i, decodeOp s.latOp = some i ∧ unitResult i s.latPoly s.latOpnd = some u.result) := by
  cases heff with
  | completeResult hturn hbusy hop hresult => exact .inr (.inr ⟨hturn, hbusy, _, hop, hresult⟩)
  | reset hturn => exact .inr (.inl ⟨hturn, rfl⟩)
  | _ => exact .inl rfl

theorem constantSet_changes (heff : StepEffect s u) :
    (u.muR = s.muR ∧ u.recipR = s.recipR ∧ u.keyr = s.keyr) ∨ (nextTurn s = .reset ∧ ResetSet u) ∨
      (nextTurn s = .engine ∧ s.status.busy = true ∧ decodeOp s.latOp = some .cset ∧
        ConstantSetOf s.latPoly u) := by
  cases heff with
  | completeCset hturn hbusy hop => exact .inr (.inr ⟨hturn, hbusy, hop, rfl, rfl, rfl⟩)
  | reset hturn => exact .inr (.inl ⟨hturn, rfl, rfl, rfl⟩)
  | _ => exact .inl ⟨rfl, rfl, rfl⟩

end StepEffect

/-- Settles O20: of the effects only the accept raises BUSY, and only a completion and reset lower it. -/
theorem busyChangesOnlyByAcceptCompletionReset : Obligations.BusyChangesOnlyByAcceptCompletionReset := by
  intro s t h
  obtain ⟨u, _, _, _, heff, rfl⟩ := step_effect h
  exact ⟨heff.busy_rises, heff.busy_falls⟩

/-- Settles O21: of the effects only a completion raises DONE; a dropped word is no effect that lowers it. -/
theorem doneChangesOnlyAsStated : Obligations.DoneChangesOnlyAsStated := by
  intro s t h
  obtain ⟨u, _, _, _, heff, rfl⟩ := step_effect h
  exact ⟨heff.done_rises, heff.done_falls⟩

/-- Settles O22: each error flag has one effect that raises it, and all three fall alike. -/
theorem errorFlagsSticky : Obligations.ErrorFlagsSticky := by
  intro s t h
  obtain ⟨u, _, _, _, heff, rfl⟩ := step_effect h
  exact ⟨heff.illegal_rises, heff.errorFlag_falls .illegal, heff.overrun_rises, heff.errorFlag_falls .overrun,
    heff.accErr_rises, heff.errorFlag_falls .accErr⟩

/-- Settles O23: LASTOP moves only with the latches, at an accept or at reset. -/
theorem lastopWrittenAtAccept : Obligations.LastopWrittenAtAccept := by
  intro s t h
  obtain ⟨u, _, _, _, heff, rfl⟩ := step_effect h
  obtain ⟨hlastop, -, -, -⟩ | ⟨hturn, rfl⟩ | ⟨hturn, hbusy, w, i, haccess, hdecode, rfl⟩ := heff.latches_change
  · exact .inl hlastop
  · exact .inr (.inl ⟨hturn, rfl⟩)
  · exact .inr (.inr ⟨hturn, hbusy, rfl, w, i, haccess, hdecode, rfl⟩)

/-! ## The operands, the results and the latches -/

/-- Settles O24: of the effects only the write to the register itself and reset change it. -/
theorem operandsWrittenByHostOnly : Obligations.OperandsWrittenByHostOnly := by
  intro s t h
  obtain ⟨u, _, _, _, heff, rfl⟩ := step_effect h
  exact ⟨heff.poly_changes, heff.operand_changes⟩

/-- The commands with a result, and what each one computes; KEY by the loop of 43_key_reducer.md R122. -/
theorem unitResult_eq_some {i : Instr} {p v r : Word} (h : unitResult i p v = some r) :
    (i = .rev ∧ r = rev64 v) ∨ (i = .mu ∧ r = muGen p) ∨ (i = .key ∧ r = keyGen v p) ∨ (i = .recip ∧ r = recipGen p) := by
  cases i with
  | nop | cset => cases h
  | rev => exact .inl ⟨rfl, (Option.some.inj h).symm⟩
  | mu => exact .inr (.inl ⟨rfl, (Option.some.inj h).symm⟩)
  | key => exact .inr (.inr (.inl ⟨rfl, (Option.some.inj h).symm.trans (keyGenFast_eq_keyGen v p)⟩))
  | recip => exact .inr (.inr (.inr ⟨rfl, (Option.some.inj h).symm⟩))

/-- Settles O25: a completion that changes RESULT is one of a command with a result, of which there are four. -/
theorem resultWrittenByCompletion : Obligations.ResultWrittenByCompletion := by
  intro s t h
  obtain ⟨u, _, _, _, heff, rfl⟩ := step_effect h
  obtain hkeep | hreset | ⟨hturn, hbusy, i, hop, hresult⟩ := heff.result_changes
  · exact .inl hkeep
  · exact .inr (.inl hreset)
  · refine .inr (.inr ⟨hturn, hbusy, ?_⟩)
    obtain ⟨rfl, e⟩ | ⟨rfl, e⟩ | ⟨rfl, e⟩ | ⟨rfl, e⟩ := unitResult_eq_some hresult
    · exact .inl ⟨hop, e⟩
    · exact .inr (.inl ⟨hop, e⟩)
    · exact .inr (.inr (.inl ⟨hop, e⟩))
    · exact .inr (.inr (.inr ⟨hop, e⟩))

/-- The exponent table has the values of its rule (R38). -/
theorem getElem_exponents (i : Fin 16) : exponents[i] = BitVec.ofNat 64 (128 + 64 * i.val) := by
  revert i
  decide

/-- Key `i` of a constant set is the key of exponent 128 + 64*i (45_constant_set.md R140). -/
theorem getElem_keySet (p : Word) (i : Fin 16) : (keySet p)[i] = keyGen (BitVec.ofNat 64 (128 + 64 * i.val)) p := by
  rw [← getElem_exponents]
  exact Vector.getElem_ofFn _

/-- Settles O26: of the effects only CSET and reset change one of the 18 registers, and each of the two writes them all. -/
theorem constantSetWrittenTogether : Obligations.ConstantSetWrittenTogether := by
  intro s t h
  obtain ⟨u, _, _, _, heff, rfl⟩ := step_effect h
  obtain hkeep | ⟨hturn, hmu, hrecip, hkeyr⟩ | ⟨hturn, hbusy, hop, hmu, hrecip, hkeyr⟩ := heff.constantSet_changes
  · exact .inl hkeep
  · exact .inr (.inl ⟨hturn, hmu, hrecip, fun i => by simp [hkeyr]⟩)
  · exact .inr (.inr ⟨hturn, hbusy, hop, hmu, hrecip, fun i => by simpa only [hkeyr] using getElem_keySet s.latPoly i⟩)

/-- Settles O27: the latches move only at an accept, which loads all three, or at reset. -/
theorem latchesWrittenAtAccept : Obligations.LatchesWrittenAtAccept := by
  intro s t h
  obtain ⟨u, _, _, _, heff, rfl⟩ := step_effect h
  obtain ⟨-, hkeep⟩ | ⟨hturn, rfl⟩ | ⟨hturn, hbusy, w, i, haccess, hdecode, rfl⟩ := heff.latches_change
  · exact .inl hkeep
  · exact .inr (.inl ⟨hturn, rfl, rfl, rfl⟩)
  · exact .inr (.inr ⟨hturn, hbusy, w, i, haccess, hdecode, rfl, rfl, rfl⟩)

/-! ## What reads and idle turns do -/

/-- Settles O9: a read of EXPR[i] does not look at the state. -/
theorem exponentTableFixed : Obligations.ExponentTableFixed := by
  intro s i
  exact ⟨getElem_exponents i, fun _ => getElem_exponents i⟩

/-- Settles O47: without BUSY the engine has no step, and only the turn is spent. -/
theorem engineIdleWithoutCommand : Obligations.EngineIdleWithoutCommand := by
  intro s hturn hbusy
  have hidle : engineTurn (dropTurn s) = .next (dropTurn s) := by simp [engineTurn, hbusy]
  rw [step, hturn]
  exact hidle

/-- Settles O51: the reply to a read is that of the register, or zeros; a write has none. -/
theorem accessesSeeRegistersOnly : Obligations.AccessesSeeRegistersOnly := by
  intro s u a hread
  cases a with
  | write => rfl
  | read off n => cases hl : legalReg .read off n <;> simp [busAccess, busRead, hl, hread]


end Sys2Proof.Laws
end

section
/-! PROOFS. The register window (20_memory.md): the legal accesses, what a read and a write do, the byte view, and that the host's
accesses leave the command in flight alone. -/

namespace Sys2Proof.Laws

open Machine

/-! ## The legal accesses -/

/-- The register map as 10_state.md R22 lists it. -/
theorem exists_regOffset_iff {off : Nat} :
    (∃ r, off = regOffset r) ↔
      (off ∈ [0x000, 0x008, 0x010, 0x018, 0x020, 0x028, 0x030] ∨
        (∃ i, i ≤ 15 ∧ off = 0x080 + 8 * i) ∨ (∃ i, i ≤ 15 ∧ off = 0x100 + 8 * i)) := by
  constructor
  · rintro ⟨r, rfl⟩
    cases r with
    | keyr i => exact .inr (.inl ⟨i, by omega, rfl⟩)
    | expr i => exact .inr (.inr ⟨i, by omega, rfl⟩)
    | _ => exact .inl (by decide)
  · rintro (h | ⟨i, hi, rfl⟩ | ⟨i, hi, rfl⟩)
    · have hnamed : ∀ o ∈ [0x000, 0x008, 0x010, 0x018, 0x020, 0x028, 0x030],
          ∃ r ∈ [Reg.cmd, .status, .poly, .operand, .result, .muR, .recipR], o = regOffset r := by decide
      obtain ⟨r, -, hr⟩ := hnamed off h
      exact ⟨r, hr⟩
    · exact ⟨.keyr ⟨i, by omega⟩, rfl⟩
    · exact ⟨.expr ⟨i, by omega⟩, rfl⟩

theorem regWritable_iff_regOffset (r : Reg) : regWritable r = true ↔ regOffset r ∈ [0x000, 0x008, 0x010, 0x018] := by
  cases r with
  | keyr i | expr i => 
    refine iff_of_false Bool.false_ne_true ?_
    simp only [regOffset, List.mem_cons, List.not_mem_nil, or_false]
    omega
  | _ => decide

/-- R51, by the register that the access reaches. -/
theorem legalReg_isSome_iff {kind : AccessKind} {off n : Nat} :
    (legalReg kind off n).isSome = true ↔
      n = 8 ∧ ∃ r, off = regOffset r ∧ (kind = .read ∨ regWritable r = true) := by
  cases kind with
  | read => simp [Option.isSome_iff_exists, legalReg_read_iff]
  | write => simp [Option.isSome_iff_exists, legalReg_write_iff]

/-- Settles O5: alignment and the window's bound follow from the register map, and the four writable offsets are those of the
writable registers. -/
theorem legalAccessExactly : Obligations.LegalAccessExactly := by
  intro kind off n
  rw [legalReg_isSome_iff]
  constructor
  · rintro ⟨hn, r, rfl, hkind⟩
    exact ⟨hn, regOffset_aligned r, regOffset_lt_window r, exists_regOffset_iff.mp ⟨r, rfl⟩,
      hkind.imp_right (regWritable_iff_regOffset r).mp⟩
  · rintro ⟨hn, -, -, hlisted, hkind⟩
    obtain ⟨r, rfl⟩ := exists_regOffset_iff.mpr hlisted
    exact ⟨hn, r, rfl, hkind.imp_right (regWritable_iff_regOffset r).mpr⟩

/-! ## Reads and writes -/

/-- R52 for reads. -/
theorem busRead_of_illegal {off n : Nat} (h : legalReg .read off n = none) (s : State) :
    busRead off n s = (s.flag .accErr, { bytes := n, data := 0 }) := by simp [busRead, h]

/-- R52 for writes. -/
theorem busWrite_of_illegal {off n : Nat} (h : legalReg .write off n = none) (v : Word) (s : State) :
    busWrite off n v s = s.flag .accErr := by simp [busWrite, h]

/-- R53, by the register. -/
@[simp] theorem busRead_regOffset (r : Reg) (s : State) :
    busRead (regOffset r) 8 s = (s, { bytes := 8, data := readReg r s }) := by
  simp [busRead, legalReg_read_iff.mpr ⟨rfl, rfl⟩]

/-- R54, by the register. -/
theorem busWrite_regOffset {r : Reg} (hr : regWritable r = true) (v : Word) (s : State) :
    busWrite (regOffset r) 8 v s = writeReg r v s := by
  simp [busWrite, legalReg_write_iff.mpr ⟨rfl, rfl, hr⟩]

/-- R54 for STATUS. -/
theorem busWrite_status (v : Word) (s : State) : busWrite 0x008 8 v s = statusWrite v s :=
  busWrite_regOffset (r := .status) rfl v s

/-- R54 for POLY. -/
theorem busWrite_poly (v : Word) (s : State) : busWrite 0x010 8 v s = { s with poly := v } :=
  busWrite_regOffset (r := .poly) rfl v s

/-- R54 for OPERAND. -/
theorem busWrite_operand (v : Word) (s : State) : busWrite 0x018 8 v s = { s with operand := v } :=
  busWrite_regOffset (r := .operand) rfl v s

/-- Settles O6: both kinds of illegal access do no more than flag ACCERR. -/
theorem accessErrorOnlySetsAccerr : Obligations.AccessErrorOnlySetsAccerr :=
  fun s _ _ v => ⟨fun h => busRead_of_illegal h s, fun h => busWrite_of_illegal h v s⟩

/-- Settles O7: a legal read is one at a register, which it returns; STATUS has its reserved bits 0. -/
theorem legalReadReturnsRegister : Obligations.LegalReadReturnsRegister := by
  intro s off n r h
  obtain ⟨rfl, rfl⟩ := legalReg_read_iff.mp h
  exact ⟨rfl, busRead_regOffset r s, rfl, rfl, extractLsb'_word_reserved _ (by omega),
    extractLsb'_word_reserved _ (by omega), rfl, rfl, rfl, rfl, rfl, fun _ => rfl, fun _ => rfl⟩

/-- Writing a value that STATUS `old` read as clears the flags that `old` had set (R64, R96). -/
theorem clearOnes_word (old st : Status) :
    st.clearOnes old.word =
      { busy := st.busy
        done := st.done && !old.done
        illegal := st.illegal && !old.illegal
        overrun := st.overrun && !old.overrun
        accErr := st.accErr && !old.accErr
        lastop := st.lastop } := by
  simp [Status.clearOnes]

/-- Settles O14: the value read back holds the flags of the state it was read in. -/
theorem statusWriteBackClearsRead : Obligations.StatusWriteBackClearsRead := by
  intro s u
  have hread : (busRead 0x008 8 s).2.data = s.status.word := congrArg (·.2.data) (busRead_regOffset .status s)
  rw [busWrite_status, hread, statusWrite, clearOnes_word]

/-- A cleared flag has nothing left to clear (R58). -/
theorem clearOnes_clearOnes (v : Word) (st : Status) : (st.clearOnes v).clearOnes v = st.clearOnes v := by
  simp [Status.clearOnes]

/-- Settles O15: STATUS has its cleared flags cleared again, POLY and OPERAND are stored again. -/
theorem registerWritesIdempotent : Obligations.RegisterWritesIdempotent := by
  intro s off v hoff
  obtain rfl | rfl | rfl : off = 0x008 ∨ off = 0x010 ∨ off = 0x018 := by simpa using hoff
  · simp only [busWrite_status, statusWrite, clearOnes_clearOnes]
  · simp only [busWrite_poly]
  · simp only [busWrite_operand]

/-! ## The byte view -/

/-- Address `a` holds one of the 8 bytes of register `r` (R55). -/
def ByteOf (r : Reg) (a : Nat) : Prop := Config.gceBase + regOffset r ≤ a ∧ a < Config.gceBase + regOffset r + 8

/-- Byte `k` of a register stands at GCE_BASE + off + k (R55). -/
theorem windowByte_regOffset (r : Reg) (s : State) {k : Nat} (hk : k < 8) :
    windowByte s (Config.gceBase + regOffset r + k) = some ((readReg r s).extractLsb' (8 * k) 8) := by
  have haligned := regOffset_aligned r
  have hwindow : regOffset r < 0x200 := regOffset_lt_window r
  have hinside : Config.gceBase ≤ Config.gceBase + regOffset r + k ∧
      Config.gceBase + regOffset r + k < Config.gceBase + Config.window := by
    rw [Config.window]; omega
  have hreg : 8 * ((Config.gceBase + regOffset r + k - Config.gceBase) / 8) = regOffset r := by omega
  have hbyte : (Config.gceBase + regOffset r + k - Config.gceBase) % 8 = k := by omega
  rw [windowByte, if_pos hinside, hreg, hbyte, regAt_regOffset]

theorem windowByte_of_byteOf {r : Reg} {a : Nat} (h : ByteOf r a) (s : State) :
    windowByte s a = some ((readReg r s).extractLsb' (8 * (a - (Config.gceBase + regOffset r))) 8) := by
  obtain ⟨hlo, hhi⟩ := h
  rw [← windowByte_regOffset r s (by omega), Nat.add_sub_cancel' hlo]

/-- The window has no byte but those of its registers (R59). -/
theorem windowByte_eq_none_iff {s : State} {a : Nat} : windowByte s a = none ↔ ∀ r, ¬ ByteOf r a := by
  constructor
  · intro h r hr
    rw [windowByte_of_byteOf hr] at h
    cases h
  · intro h
    unfold windowByte
    split
    · next hinside =>
      split
      · next r hr =>
        have hoff := regAt_eq_some hr
        exact absurd ⟨by omega, by omega⟩ (h r)
      · rfl
    · rfl

/-- A byte of the window is a function of the register it belongs to. -/
theorem windowByte_congr {s t : State} {a : Nat} (h : ∀ r, ByteOf r a → readReg r t = readReg r s) :
    windowByte t a = windowByte s a := by
  by_cases hr : ∃ r, ByteOf r a
  · obtain ⟨r, hr⟩ := hr
    rw [windowByte_of_byteOf hr, windowByte_of_byteOf hr, h r hr]
  · rw [not_exists] at hr
    rw [windowByte_eq_none_iff.mpr hr, windowByte_eq_none_iff.mpr hr]

/-- Settles O10: reads and writes carry the whole word, and byte `k` is its bits 8k+7:8k in the reply and in the window. -/
theorem windowLittleEndian : Obligations.WindowLittleEndian := by
  intro s r v
  refine ⟨fun _ => by rw [busRead_regOffset], fun _ => by rw [busWrite_poly], fun _ => by rw [busWrite_operand],
    fun k hk => ⟨_, windowByte_regOffset r s hk, ?_, fun j hj => ?_⟩⟩
  · rw [busRead_regOffset, ReadReply.byte]
  · simp [hj]

/-- The offsets that R59 does not reserve. -/
theorem exists_regOffset_iff_ranges {off : Nat} :
    (∃ r, off = regOffset r) ↔ off % 8 = 0 ∧ (off < 0x038 ∨ 0x080 ≤ off ∧ off < 0x180) := by
  rw [exists_regOffset_iff]
  simp only [List.mem_cons, List.not_mem_nil, or_false]
  constructor
  · rintro (hnamed | ⟨i, hi, rfl⟩ | ⟨i, hi, rfl⟩) <;> omega
  · rintro ⟨haligned, hlow | ⟨hkeyr, hexpr⟩⟩
    · exact .inl (by omega)
    · by_cases h : off < 0x100
      · exact .inr (.inl ⟨(off - 0x080) / 8, by omega, by omega⟩)
      · exact .inr (.inr ⟨(off - 0x100) / 8, by omega, by omega⟩)

/-- Settles O11: the registers fill the window but for the two reserved ranges. -/
theorem windowHoldsRegistersOnly : Obligations.WindowHoldsRegistersOnly := by
  intro s a
  refine ⟨Nat.mul_mod_right _ _, windowByte_eq_none_iff.trans ⟨fun h => ?_, ?_⟩⟩
  · by_contra hin
    obtain ⟨r, hr⟩ : ∃ r, 8 * ((a - Config.gceBase) / 8) = regOffset r := exists_regOffset_iff_ranges.mpr (by omega)
    exact h r ⟨by omega, by omega⟩
  · rintro hout r ⟨hlo, hhi⟩
    have hranges := exists_regOffset_iff_ranges.mp ⟨r, rfl⟩
    omega

/-! ## The bytes that a command leaves -/

/-- The registers that the completion of a command writes beside STATUS (40_command_control.md R93,
70_reset_and_hazards.md R179). -/
def destination : Instr → Reg → Prop
  | .nop, _ => False
  | .rev, r | .mu, r | .key, r | .recip, r => r = .result
  | .cset, r => r = .muR ∨ r = .recipR ∨ ∃ j, r = .keyr j

/-- R179: every register outside STATUS and the command's destination keeps its value. -/
theorem readReg_exec {i : Instr} {s t : State} (h : exec i s = .next t) {r : Reg} (hstatus : r ≠ .status)
    (hdest : ¬ destination i r) : readReg r t = readReg r s := by
  obtain ⟨rfl, rfl⟩ | ⟨v, hv, rfl⟩ | ⟨rfl, rfl⟩ := exec_cases h
  · cases r with
    | status => exact absurd rfl hstatus
    | _ => rfl
  · have hresult : r ≠ .result := by
      obtain ⟨rfl, -⟩ | ⟨rfl, -⟩ | ⟨rfl, -⟩ | ⟨rfl, -⟩ := hv <;> exact hdest
    cases r with
    | status => exact absurd rfl hstatus
    | result => exact absurd rfl hresult
    | _ => rfl
  · cases r with
    | status => exact absurd rfl hstatus
    | muR => exact absurd (.inl rfl) hdest
    | recipR => exact absurd (.inr (.inl rfl)) hdest
    | keyr j => exact absurd (.inr (.inr ⟨j, rfl⟩)) hdest
    | _ => rfl

/-- R179 in the byte view. -/
theorem windowByte_exec {i : Instr} {s t : State} (h : exec i s = .next t) {a : Nat} (hstatus : ¬ ByteOf .status a)
    (hdest : ∀ r, destination i r → ¬ ByteOf r a) : windowByte t a = windowByte s a :=
  windowByte_congr fun r hr => readReg_exec h (fun e => hstatus (e ▸ hr)) fun hd => hdest r hd hr

/-- Settles O35: the byte ranges that it leaves out are those of STATUS and of the command's destination. -/
theorem commandsFrameWindowBytes : Obligations.CommandsFrameWindowBytes := by
  intro i s t a h hstatus
  refine ⟨fun hi hresult => ?_, ?_, ?_⟩
  · refine windowByte_exec h hstatus fun r hr => ?_
    have hr : r = .result := by obtain rfl | rfl | rfl | rfl := hi <;> exact hr
    exact hr ▸ hresult
  · rintro rfl hmuRecip hkeyr
    refine windowByte_exec h hstatus ?_
    rintro r (rfl | rfl | ⟨j, rfl⟩) ⟨hlo, hhi⟩ <;> simp only [regOffset] at hlo hhi
    · exact hmuRecip ⟨by omega, by omega⟩
    · exact hmuRecip ⟨by omega, by omega⟩
    · exact hkeyr ⟨by omega, by omega⟩
  · rintro rfl
    exact windowByte_exec h hstatus fun _ hr => hr.elim

/-! ## The command in flight -/

/-- What a command in flight reads and writes (R65, R93): STATUS less its W1C bits, the latches and the result registers. -/
structure InFlight where
  busy : Bool
  lastop : BitVec 4
  latOp : BitVec 4
  latPoly : Word
  latOpnd : Word
  result : Word
  muR : Word
  recipR : Word
  keyr : Vector Word 16

/-- The part of a state that is the command in flight. -/
def inFlight (s : State) : InFlight :=
  { busy := s.status.busy, lastop := s.status.lastop, latOp := s.latOp, latPoly := s.latPoly, latOpnd := s.latOpnd,
    result := s.result, muR := s.muR, recipR := s.recipR, keyr := s.keyr }

/-- The completion of a command, as far as it concerns the command in flight (R93, 45_constant_set.md R140). -/
def InFlight.complete (i : Instr) (c : InFlight) : InFlight :=
  match i with
  | .cset => { c with
      busy := false, muR := muGen c.latPoly, recipR := recipGen c.latPoly, keyr := keySet c.latPoly }
  | _ => { c with busy := false, result := (unitResult i c.latPoly c.latOpnd).getD c.result }

/-- A completion depends on the command in flight alone (00_scope.md R9). -/
theorem inFlight_exec {i : Instr} {s t : State} (h : exec i s = .next t) :
    inFlight t = (inFlight s).complete i := by
  obtain ⟨rfl, rfl⟩ | ⟨v, hv, rfl⟩ | ⟨rfl, rfl⟩ := exec_cases h
  · rfl
  · obtain ⟨rfl, rfl⟩ | ⟨rfl, rfl⟩ | ⟨rfl, rfl⟩ | ⟨rfl, rfl⟩ := hv <;> rfl
  · rfl

/-- While BUSY = 1 no host access is an accept, and no other one touches the command in flight (R65, R94). -/
theorem StepEffect.inFlight_of_host {s u : State} (heff : StepEffect s u) (hturn : nextTurn s = .host)
    (hbusy : s.status.busy = true) : inFlight u = inFlight s := by
  cases heff with
  | accept _ _ hidle | illegalWord _ _ hidle => rw [hbusy] at hidle; cases hidle
  | completeNop hengine | completeResult hengine | completeCset hengine => rw [hturn] at hengine; cases hengine
  | reset hreset => rw [hturn] at hreset; cases hreset
  | _ => rfl

/-- A host turn spends its turn and leaves the command in flight (70_reset_and_hazards.md R175). -/
theorem step_host_inFlight {s : State} (hturn : nextTurn s = .host) (hbusy : s.status.busy = true) :
    ∃ t, step s = .next t ∧ inFlight t = inFlight s ∧ t.schedule = s.schedule.tail := by
  have hstep := step_of_host hturn
  obtain ⟨-, -, -, -, hschedule⟩ := hostTurn_keeps (dropTurn s)
  obtain ⟨u, _, _, _, heff, e⟩ := step_effect hstep
  exact ⟨_, hstep, e ▸ heff.inFlight_of_host hturn hbusy, hschedule⟩

/-- Any number of host turns leaves the command in flight. -/
theorem run_host_inFlight (n : Nat) {s : State} {later : List Turn} (hbusy : s.status.busy = true)
    (hsched : s.schedule = List.replicate n .host ++ later) :
    ∃ t : State, core.run n s = .next t ∧ inFlight t = inFlight s ∧ t.schedule = later := by
  induction n generalizing s with
  | zero => exact ⟨s, rfl, rfl, hsched⟩
  | succ n ih =>
    have hturn : nextTurn s = .host := by rw [nextTurn, hsched]; rfl
    obtain ⟨u, hstep, hu, husched⟩ := step_host_inFlight hturn hbusy
    have hubusy : u.status.busy = true := (congrArg InFlight.busy hu).trans hbusy
    obtain ⟨t, hrun, ht, htsched⟩ := ih hubusy (husched.trans (by rw [hsched]; rfl))
    exact ⟨t, (run_succ_of_step n hstep).trans hrun, ht.trans hu, htsched⟩

/-- R93, R98: the engine's step with a command in flight. -/
theorem step_of_engine {s : State} {i : Instr} (hturn : nextTurn s = .engine) (hbusy : s.status.busy = true)
    (hop : decodeOp s.latOp = some i) : step s = exec i (dropTurn s) := by
  rw [step, hturn]
  simp [takeTurn, engineTurn, hbusy, hop]

/-- The flags at a completion (R93), which takes no turn off the schedule. -/
theorem exec_status_schedule {i : Instr} {s t : State} (h : exec i s = .next t) :
    t.status = s.status.complete ∧ t.schedule = s.schedule := by
  obtain ⟨-, rfl⟩ | ⟨v, -, rfl⟩ | ⟨-, rfl⟩ := exec_cases h <;> exact ⟨rfl, rfl⟩

/-- Settles O57: the host turns leave the command in flight, on which alone its completion depends. -/
theorem commandInFlightUndisturbed : Obligations.CommandInFlightUndisturbed := by
  intro s u i n later hbusy hop hu hsched
  obtain ⟨v, hrun, hv, hvsched⟩ := run_host_inFlight n hbusy hsched
  have hvturn : nextTurn v = .engine := by rw [nextTurn, hvsched]
  have hvbusy : v.status.busy = true := (congrArg InFlight.busy hv).trans hbusy
  have hvop : decodeOp v.latOp = some i := (congrArg (decodeOp ∘ InFlight.latOp) hv).trans hop
  obtain ⟨t, ht⟩ := exec_next i (dropTurn v)
  have hstep : step v = .next t := (step_of_engine hvturn hvbusy hvop).trans ht
  obtain ⟨hstatus, htsched⟩ := exec_status_schedule ht
  have htu : inFlight t = inFlight u :=
    calc inFlight t = (inFlight v).complete i := (inFlight_exec ht :)
      _ = (inFlight s).complete i := by rw [hv]
      _ = inFlight u := (inFlight_exec hu).symm
  exact ⟨t, (run_add n 1 hrun).trans (run_succ_of_step 0 hstep), by simp [hstatus], by simp [hstatus],
    hstatus ▸ congrArg InFlight.lastop hv, congrArg InFlight.result htu, congrArg InFlight.muR htu,
    congrArg InFlight.recipR htu, congrArg InFlight.keyr htu, htsched.trans (by simp [hvsched])⟩

end Sys2Proof.Laws
end

section
/-! PROOFS. The encoding (30_encoding.md): the fields of a command word, what the decoder answers, a command's bytes, and the host's
statements as bus accesses. -/

namespace Sys2Proof.Laws

open Machine

/-! ## The fields of a command word -/

/-- The reserved bits 63:4 are all 0 in the sixteen least words (R70). -/
theorem highBits_false_iff_lt {w : Word} : (∀ k, 4 ≤ k → w.getLsbD k = false) ↔ w.toNat < 16 := by
  constructor
  · exact fun h => Nat.lt_pow_two_of_testBit (n := 4) w.toNat h
  · intro h k hk
    exact Nat.testBit_eq_false_of_lt (h.trans_le (Nat.pow_le_pow_right (n := 2) (by decide) hk))

/-- RSVZ is what is left of the word above OP (R70). -/
theorem rsvzField_eq_zero_iff {w : Word} : rsvzField w = 0 ↔ w.toNat < 16 := by
  have hsixteens : (rsvzField w).toNat = w.toNat / 16 % 2 ^ 60 := by
    simp [rsvzField, Nat.shiftRight_eq_div_pow]
  rw [← BitVec.toNat_inj, hsixteens]
  simp only [BitVec.ofNat_eq_ofNat, BitVec.toNat_ofNat]
  omega

theorem toNat_opField (w : Word) : (opField w).toNat = w.toNat % 16 := by
  simp [opField]

/-- A command word is its opcode (R72). -/
theorem toNat_encode (i : Instr) : (encode i).toNat = i.opcode.toNat := by
  rw [encode, BitVec.toNat_append]
  simp

theorem toNat_opcode_le (i : Instr) : i.opcode.toNat ≤ 5 :=
  (decodeOp_isSome_iff _).mp ⟨i, decodeOp_opcode i⟩

/-! ## What the decoder answers -/

/-- Every command is read back, from its word and from its bytes. -/
theorem roundTrip (i : Instr) : RoundTrip.Statement i := by
  cases i with
  | nop => exact RoundTrip.nop
  | rev => exact RoundTrip.rev
  | mu => exact RoundTrip.mu
  | key => exact RoundTrip.key
  | recip => exact RoundTrip.recip
  | cset => exact RoundTrip.cset

@[simp] theorem decode_encode (i : Instr) : decode (encode i) = .command i := by
  obtain ⟨-, h, -, -⟩ := roundTrip i
  exact h

theorem decodeBytes_encodeBytes (i : Instr) : decodeBytes (encodeBytes i) = some (.command i) := by
  obtain ⟨-, -, h, -⟩ := roundTrip i
  exact h

/-- The opcode map has no other row for a command (R72). -/
theorem decodeOp_eq_some {op : BitVec 4} {i : Instr} (h : decodeOp op = some i) : op = i.opcode := by
  unfold decodeOp at h
  split at h <;> cases h <;> next hop => exact BitVec.eq_of_toNat_eq hop

/-- Everything that the decoder can answer (R73, R74). -/
theorem decode_cases (w : Word) :
    (16 ≤ w.toNat ∧ decode w = .illegal .reservedBits) ∨
    (6 ≤ w.toNat ∧ w.toNat ≤ 15 ∧ decode w = .illegal .reservedOpcode) ∨
    (∃ i, w = encode i ∧ decode w = .command i) := by
  unfold decode
  split
  · next hrsvz =>
    have hlow : w.toNat < 16 := rsvzField_eq_zero_iff.mp hrsvz
    have hop : (opField w).toNat = w.toNat := by rw [toNat_opField, Nat.mod_eq_of_lt hlow]
    split
    · next i hi =>
      have hw : w = encode i := BitVec.eq_of_toNat_eq (by rw [toNat_encode, ← decodeOp_eq_some hi, hop])
      exact .inr (.inr ⟨i, hw, rfl⟩)
    · next hnone =>
      have hreserved : ¬ (opField w).toNat ≤ 5 := by simp [← decodeOp_isSome_iff, hnone]
      exact .inr (.inl ⟨by omega, by omega, rfl⟩)
  · next hrsvz => exact .inl ⟨Nat.not_lt.mp (mt rsvzField_eq_zero_iff.mpr hrsvz), rfl⟩

theorem decode_eq_command_iff {w : Word} {i : Instr} : decode w = .command i ↔ w = encode i := by
  constructor
  · intro h
    obtain ⟨-, hd⟩ | ⟨-, -, hd⟩ | ⟨j, hw, hd⟩ := decode_cases w <;> rw [h] at hd <;> cases hd
    exact hw
  · rintro rfl
    exact decode_encode i

/-- R73: the six legal words. -/
theorem exists_decode_command_iff {w : Word} : (∃ i, decode w = .command i) ↔ w.toNat ≤ 5 := by
  constructor
  · rintro ⟨i, h⟩
    rw [decode_eq_command_iff.mp h, toNat_encode]
    exact toNat_opcode_le i
  · intro h
    obtain ⟨hbig, -⟩ | ⟨hbig, -, -⟩ | ⟨i, -, hd⟩ := decode_cases w
    · omega
    · omega
    · exact ⟨i, hd⟩

/-- R74: a reserved bit. -/
theorem decode_eq_reservedBits_iff {w : Word} : decode w = .illegal .reservedBits ↔ 16 ≤ w.toNat := by
  obtain ⟨hw, hd⟩ | ⟨-, hw, hd⟩ | ⟨i, rfl, hd⟩ := decode_cases w <;> rw [hd]
  · exact iff_of_true rfl hw
  · exact iff_of_false (by decide) (by omega)
  · have := toNat_opcode_le i
    exact iff_of_false (by simp) (by rw [toNat_encode]; omega)

/-- R74: a reserved opcode. -/
theorem decode_eq_reservedOpcode_iff {w : Word} :
    decode w = .illegal .reservedOpcode ↔ 6 ≤ w.toNat ∧ w.toNat ≤ 15 := by
  obtain ⟨hw, hd⟩ | ⟨hlo, hhi, hd⟩ | ⟨i, rfl, hd⟩ := decode_cases w <;> rw [hd]
  · exact iff_of_false (by decide) (by omega)
  · exact iff_of_true rfl ⟨hlo, hhi⟩
  · have := toNat_opcode_le i
    exact iff_of_false (by simp) (by rw [toNat_encode]; omega)

/-- Settles O1: the legal words are those at most 5, which by their value have bits 63:4 zero, and each one is its opcode. -/
theorem decodeLegalExactlySixWords : Obligations.DecodeLegalExactlySixWords := by
  intro w
  refine ⟨?_, exists_decode_command_iff, fun i h => ?_, fun h => ?_⟩
  · rw [exists_decode_command_iff, highBits_false_iff_lt]
    omega
  · have := toNat_opcode_le i
    rw [decode_eq_command_iff.mp h, toNat_encode]
    omega
  · cases hd : decode w with
    | command i => exact absurd ⟨i, hd⟩ h
    | illegal why => exact ⟨why, rfl⟩

/-- Settles O4: both reasons by the word's value. -/
theorem reservedWordsByReason : Obligations.ReservedWordsByReason := by
  intro w
  refine ⟨?_, decode_eq_reservedOpcode_iff⟩
  rw [decode_eq_reservedBits_iff, ← Nat.not_lt, ← highBits_false_iff_lt]
  simp

/-- Settles O3: the words are the encodings of the six commands. -/
theorem tableWordsDecode : Obligations.TableWordsDecode :=
  ⟨decode_encode .nop, decode_encode .rev, decode_encode .mu, decode_encode .key, decode_encode .recip,
    decode_encode .cset, by decide +kernel, decodeBytes_encodeBytes .cset⟩

/-! ## The bytes of a command word -/

/-- Bit `j` of byte `k` is bit 8k+j of the number that the bytes stand for (20_memory.md R55). -/
theorem testBit_natOfBytes (bs : List Byte) {k j : Nat} (hk : k < bs.length) (hj : j < 8) :
    (natOfBytes bs).testBit (8 * k + j) = bs[k].getLsbD j := by
  induction bs generalizing k with
  | nil => cases hk
  | cons b rest ih =>
    have hsplit : natOfBytes (b :: rest) = 2 ^ 8 * natOfBytes rest + b.toNat := Nat.add_comm _ _
    rw [hsplit, Nat.testBit_two_pow_mul_add _ b.isLt]
    cases k with
    | zero => simp [hj, BitVec.testBit_toNat]
    | succ k =>
      have hrest : 8 * (k + 1) + j - 8 = 8 * k + j := by omega
      rw [if_neg (by omega), hrest, ih (Nat.lt_of_succ_lt_succ hk), List.getElem_cons_succ]

theorem getElem_bytesOfWord (w : Word) {k : Nat} (hk : k < (bytesOfWord w).length) :
    (bytesOfWord w)[k] = w.extractLsb' (8 * k) 8 := by
  simp [bytesOfWord]

/-- Eight bytes are the bytes of the word that they stand for (R55). -/
theorem bytesOfWord_natOfBytes {bs : List Byte} (h : bs.length = 8) :
    bytesOfWord (BitVec.ofNat 64 (natOfBytes bs)) = bs := by
  apply List.ext_getElem
  · simp [bytesOfWord, h]
  · intro k hk hk'
    apply BitVec.eq_of_getLsbD_eq
    intro j hj
    have hbit : 8 * k + j < 64 := by omega
    rw [getElem_bytesOfWord, BitVec.getLsbD_extractLsb', BitVec.getLsbD_ofNat, testBit_natOfBytes bs hk' hj]
    simp [hj, hbit]

/-- A command word is read from eight bytes only, and from their word (R70). -/
theorem decodeBytes_eq_some {bs : List Byte} {d : Decoded} (h : decodeBytes bs = some d) :
    bs.length = 8 ∧ decode (BitVec.ofNat 64 (natOfBytes bs)) = d := by
  unfold decodeBytes at h
  split at h
  · next hlen => exact ⟨hlen, Option.some.inj h⟩
  · cases h

/-- Settles O2: on bytes, the word that eight bytes stand for is the command's encoding, and they are that word's bytes. -/
theorem encodeDecodeAgree : Obligations.EncodeDecodeAgree := by
  refine fun i => ⟨fun w => decode_eq_command_iff, fun bs => ⟨fun h => ?_, ?_⟩⟩
  · obtain ⟨hlen, hd⟩ := decodeBytes_eq_some h
    rw [encodeBytes, ← decode_eq_command_iff.mp hd, bytesOfWord_natOfBytes hlen]
  · rintro rfl
    exact decodeBytes_encodeBytes i

/-! ## The host's statements -/

section
variable {s : State} {rest : List Stmt}

/-- R76: WR. -/
theorem hostTurn_wr {n : Nat} {loc : Loc} {v : Value} (h : s.program = .wr n loc v :: rest) :
    hostTurn s = { busWrite (locOffset loc) n (valueOf s.replies v) s with program := rest } := by
  rw [hostTurn, h]
  rfl

/-- R76: RD. Its access leaves the temporaries to the host. -/
theorem hostTurn_rd {n : Nat} {loc : Loc} (h : s.program = .rd n loc :: rest) :
    hostTurn s = { (busRead (locOffset loc) n s).1 with
      program := rest, replies := s.replies ++ [(busRead (locOffset loc) n s).2] } := by
  obtain ⟨-, -, -, -, -, hreplies, -⟩ := busAccess_keeps (.read (locOffset loc) n) s
  rw [hostTurn, h, ← hreplies]
  rfl

/-- R76: one read of a POLL, which the exit test ends or leaves to the next turn. -/
theorem hostTurn_poll {r : Reg} {mask val : Word} (h : s.program = .poll r mask val :: rest) :
    hostTurn s = if readReg r s &&& mask = val then
      { s with program := rest, replies := s.replies ++ [{ bytes := 8, data := readReg r s }] } else s := by
  rw [hostTurn, h]
  simp [stmtAccess, busAccess, hostAdvance, stmtLeaves]

end

/-- Settles O48: the step is the host's turn, by its statement; the turn taken off the schedule is in no register. -/
theorem hostTurnPerformsStatement : Obligations.HostTurnPerformsStatement := by
  rintro s _ rest hturn rfl
  rw [step_of_host hturn]
  refine ⟨fun n loc v h => congrArg _ (hostTurn_wr h), fun n loc h => congrArg _ (hostTurn_rd h), fun r mask val h => ?_⟩
  have hread : readReg r (dropTurn s) = readReg r s := by cases r <;> rfl
  have hpoll := hostTurn_poll (s := dropTurn s) h
  rw [hread] at hpoll
  exact ⟨fun hexit => congrArg _ (hpoll.trans (if_pos hexit)), fun hstay => congrArg _ (hpoll.trans (if_neg hstay))⟩

end Sys2Proof.Laws
end

section
/-! PROOFS. Command control (40_command_control.md): the register writes, what a completion leaves unchanged, the engine's turn, and
that a command in flight ends. -/

namespace Sys2Proof.Laws

open Machine

/-! ## Writes to CMD -/

/-- R54 for CMD. -/
theorem busWrite_cmd (w : Word) (s : State) : busWrite 0x000 8 w s = cmdWrite w s :=
  busWrite_regOffset (r := .cmd) rfl w s

theorem cmdWrite_of_busy {s : State} (hbusy : s.status.busy = true) (w : Word) : cmdWrite w s = s.flag .overrun := by
  simp [cmdWrite, hbusy]

theorem cmdWrite_of_command {s : State} {w : Word} {i : Instr} (hbusy : s.status.busy = false)
    (hdecode : decode w = .command i) : cmdWrite w s = accept w s := by
  simp [cmdWrite, hbusy, hdecode]

theorem cmdWrite_of_illegal {s : State} {w : Word} {why : IllegalWord} (hbusy : s.status.busy = false)
    (hdecode : decode w = .illegal why) : cmdWrite w s = illegalCommand s := by
  simp [cmdWrite, hbusy, hdecode]

/-- Settles O16: the write is an accept, whose fields are those of R91. -/
theorem acceptLatchesOperands : Obligations.AcceptLatchesOperands := by
  intro s w i hbusy hdecode
  rw [busWrite_cmd, cmdWrite_of_command hbusy hdecode]
  rfl

/-- Settles O17: the write is that of an illegal word, whose flags are those of R92. -/
theorem illegalWordSetsIllegal : Obligations.IllegalWordSetsIllegal := by
  intro s w why hbusy hdecode
  rw [busWrite_cmd, cmdWrite_of_illegal hbusy hdecode]
  rfl

/-- Settles O18: while BUSY = 1 the word is not decoded, so that its legality does not matter. -/
theorem overrunDropsWord : Obligations.OverrunDropsWord := by
  intro s w hbusy
  rw [busWrite_cmd, cmdWrite_of_busy hbusy]
  rfl

/-! ## Writes to STATUS, POLY and OPERAND -/

/-- Settles O12: the two register writes, which do not look at BUSY. -/
theorem operandWritesStore : Obligations.OperandWritesStore :=
  fun s v => ⟨busWrite_poly v s, busWrite_operand v s⟩

/-- A W1C bit written as 1 is cleared, and kept else (R96). -/
theorem clearOnes_eq_ite (v : Word) (st : Status) :
    st.clearOnes v =
      { busy := st.busy
        done := if v.getLsbD 1 then false else st.done
        illegal := if v.getLsbD 2 then false else st.illegal
        overrun := if v.getLsbD 3 then false else st.overrun
        accErr := if v.getLsbD 4 then false else st.accErr
        lastop := st.lastop } := by
  simp [Status.clearOnes, Bool.and_comm]

/-- Settles O13: the flags by `clearOnes_eq_ite`; nothing else is written. -/
theorem statusWriteClearsOnes : Obligations.StatusWriteClearsOnes := by
  intro s v
  rw [busWrite_status, statusWrite, clearOnes_eq_ite]

/-! ## Completions -/

/-- Settles O28: a NOP is the common end of every completion. -/
theorem nopCompletes : Obligations.NopCompletes := fun _ => rfl

/-- Settles O34: of what a completion can do, only CSET touches the constant set, and NOP and CSET have no result. -/
theorem commandsFrame : Obligations.CommandsFrame := by
  intro i s t h
  have hresult : i = .nop ∨ i = .cset → t.result = s.result := by
    rintro (rfl | rfl) <;> exact exec_result h
  obtain ⟨-, rfl⟩ | ⟨v, -, rfl⟩ | ⟨rfl, rfl⟩ := exec_cases h
  · exact ⟨rfl, rfl, rfl, rfl, rfl, rfl, rfl, rfl, rfl, hresult, fun _ => ⟨rfl, rfl, rfl⟩⟩
  · exact ⟨rfl, rfl, rfl, rfl, rfl, rfl, rfl, rfl, rfl, hresult, fun _ => ⟨rfl, rfl, rfl⟩⟩
  · exact ⟨rfl, rfl, rfl, rfl, rfl, rfl, rfl, rfl, rfl, hresult, fun hcset => absurd rfl hcset⟩

/-! ## The engine's turn -/

/-- Settles O45: the engine's step with a command in flight. -/
theorem stepRunsLatchedCommand : Obligations.StepRunsLatchedCommand :=
  fun _ _ hturn hbusy hop => step_of_engine hturn hbusy hop

/-- A legal word is placed as its accept leaves it, with the engine to move next (R91). -/
theorem placeWord_of_command {w : Word} {i : Instr} (hdecode : decode w = .command i) (s : State) :
    placeWord w s = { accept w s with schedule := .engine :: s.schedule } := by
  simp [placeWord, hdecode]

/-- A word of the full width is placed whole. -/
theorem withFetchWord_toNat (w : Word) (s : State) : s.withFetchWord 64 w.toNat = placeWord w s := by
  rw [State.withFetchWord, Nat.mod_eq_of_lt w.isLt, BitVec.ofNat_toNat, BitVec.setWidth_eq]

/-- Settles O46: the placed state has the engine to move and the command's opcode in lat.OP; the step takes off the turn that the
placing put on the schedule. -/
theorem placedWordRunsNext : Obligations.PlacedWordRunsNext := by
  intro s i
  have hop : decodeOp (opField (encode i)) = some i := by rw [opField_encode, decodeOp_opcode]
  rw [withFetchWord_toNat, placeWord_of_command (decode_encode i), step_of_engine rfl rfl hop, ← opField_encode]
  rfl

/-! ## A command in flight ends -/

/-- While BUSY = 1 the host moves only where the schedule says so (R99). -/
theorem schedule_of_host {s : State} (hturn : nextTurn s = .host) (hbusy : s.status.busy = true) :
    s.schedule = .host :: s.schedule.tail := by
  unfold nextTurn at hturn
  split at hturn
  · next hsched => rw [hsched, hturn, List.tail_cons]
  · simp [hbusy] at hturn

/-- With a command in flight, the engine's turn and reset end it, and a host turn spends its turn and leaves the command (R99). -/
theorem step_inFlight {s : State} {i : Instr} (hbusy : s.status.busy = true) (hop : decodeOp s.latOp = some i) :
    ∃ t, step s = .next t ∧
      (t.status.busy = false ∨ (inFlight t = inFlight s ∧ s.schedule = .host :: t.schedule)) := by
  cases hturn : nextTurn s with
  | host =>
    obtain ⟨t, hstep, hflight, htail⟩ := step_host_inFlight hturn hbusy
    exact ⟨t, hstep, .inr ⟨hflight, htail ▸ schedule_of_host hturn hbusy⟩⟩
  | engine =>
    obtain ⟨t, ht⟩ := exec_next i (dropTurn s)
    obtain ⟨hstatus, -⟩ := exec_status_schedule ht
    exact ⟨t, (step_of_engine hturn hbusy hop).trans ht, .inl (by rw [hstatus, status_complete_busy])⟩
  | reset => exact ⟨_, step_of_reset hturn, .inl rfl⟩

/-- A command in flight ends: each step that does not end it takes a host turn off the schedule (R99). -/
theorem exists_run_clears_busy {s : State} {i : Instr} (hbusy : s.status.busy = true)
    (hop : decodeOp s.latOp = some i) :
    ∃ k t, 1 ≤ k ∧ k ≤ s.schedule.length + 1 ∧ core.run k s = .next t ∧ t.status.busy = false := by
  obtain ⟨t, hstep, hend | ⟨hflight, hhost⟩⟩ := step_inFlight hbusy hop
  · exact ⟨1, t, le_rfl, by omega, run_succ_of_step 0 hstep, hend⟩
  · have htbusy : t.status.busy = true := (congrArg InFlight.busy hflight).trans hbusy
    have htop : decodeOp t.latOp = some i := (congrArg (decodeOp ∘ InFlight.latOp) hflight).trans hop
    obtain ⟨k, u, -, hk, hrun, hu⟩ := exists_run_clears_busy htbusy htop
    exact ⟨k + 1, u, by omega, by simp [hhost, hk], (run_succ_of_step k hstep).trans hrun, hu⟩
termination_by s.schedule.length
decreasing_by simp [hhost]

/-- Settles O56: by the invariant lat.OP names a command, which ends. -/
theorem commandInFlightEnds : Obligations.CommandInFlightEnds := by
  intro s hinv hbusy
  obtain ⟨i, hop⟩ := (decodeOp_isSome_iff s.latOp).mpr hinv.latch_command
  exact exists_run_clears_busy hbusy hop

end Sys2Proof.Laws
end

section
/-! PROOFS. The bit-reversal circuit (41_bit_reversal.md): REV's completion and the properties of Rev64, read off its bits. -/

namespace Sys2Proof.Laws

open Machine

/-- R100 inside the word. -/
theorem getLsbD_rev64_of_lt {i : Nat} (hi : i < 64) (v : Word) : (rev64 v).getLsbD i = v.getLsbD (63 - i) := by
  rw [getLsbD_rev64, decide_eq_true hi, Bool.true_and]

/-- A word is the reversal of `v` when its bits are those of `v` in reverse. -/
theorem rev64_eq_of_getLsbD {v r : Word} (h : ∀ i, i < 64 → v.getLsbD (63 - i) = r.getLsbD i) : rev64 v = r :=
  BitVec.eq_of_getLsbD_eq fun i hi => (getLsbD_rev64_of_lt hi v).trans (h i hi)

/-- Settles O29: RESULT is Rev64 of lat.OPND, and the rest is the common end of every completion. -/
theorem revReversesBits : Obligations.RevReversesBits :=
  fun s => ⟨rev64 s.latOpnd, fun _ hi => getLsbD_rev64_of_lt hi s.latOpnd, rfl⟩

/-- Mirroring an index twice gives the index back. -/
theorem rev64_rev64 (v : Word) : rev64 (rev64 v) = v := by
  refine rev64_eq_of_getLsbD fun i hi => ?_
  have hmirror : 63 - (63 - i) = i := by omega
  rw [getLsbD_rev64_of_lt (by omega), hmirror]

/-- Each output bit is one input bit (R102). -/
theorem rev64_xor (a b : Word) : rev64 (a ^^^ b) = rev64 a ^^^ rev64 b := by
  refine rev64_eq_of_getLsbD fun i hi => ?_
  rw [BitVec.getLsbD_xor, BitVec.getLsbD_xor, getLsbD_rev64_of_lt hi, getLsbD_rev64_of_lt hi]

theorem rev64_zero : rev64 0#64 = 0#64 :=
  rev64_eq_of_getLsbD fun i _ => by rw [BitVec.getLsbD_zero, BitVec.getLsbD_zero]

theorem rev64_allOnes : rev64 (BitVec.allOnes 64) = BitVec.allOnes 64 := by
  refine rev64_eq_of_getLsbD fun i hi => ?_
  have hmirror : 63 - i < 64 := by omega
  rw [BitVec.getLsbD_allOnes, BitVec.getLsbD_allOnes, decide_eq_true hi, decide_eq_true hmirror]

/-- A single bit moves to the mirrored index. -/
theorem rev64_twoPow {k : Nat} (hk : k < 64) : rev64 (BitVec.twoPow 64 k) = BitVec.twoPow 64 (63 - k) := by
  refine rev64_eq_of_getLsbD fun i hi => ?_
  have hmirror : k = 63 - i ↔ 63 - k = i := by omega
  rw [BitVec.getLsbD_twoPow, BitVec.getLsbD_twoPow, decide_eq_true hk, decide_eq_true (show 63 - k < 64 by omega),
    decide_eq_decide.mpr hmirror]

/-- Settles O38: bits 63 and 0 are the mirrored pair at the two ends of the word. -/
theorem rev64Properties : Obligations.Rev64Properties :=
  ⟨rev64_rev64, rev64_zero, rev64_allOnes, rev64_twoPow (k := 63) (by decide), rev64_twoPow (k := 0) (by decide), rev64_xor⟩

end Sys2Proof.Laws
end

section
/-! PROOFS. The Barrett-mu unit (42_barrett_mu.md): the quotient of R111 as a list of bits, each the top bit of a running remainder,
and from it the recurrence, bit 0 and the closed form of MuGen. The window (high, low) of R111 is x times that remainder: `high` is
the remainder's top bit and `low` the rest, shifted. One iteration is thus one MulXMod step (R121), from the same start x^63 as KEY's. -/

namespace Sys2Proof.Laws

open Machine Polynomial

/-- The remainder whose top bit is `high` and whose other bits, shifted, are `low` before iteration `k` of R111. -/
def muRemainder (p : Word) (k : Nat) : Word := (fun n => mulXMod n p)^[k] keyStart

/-- The quotient `q` before iteration `k` of R111. -/
def muQuotient (p : Word) (k : Nat) : Word := muDivide p k true 0 0

/-- The update of the quotient in R111: shift left by 1 and set the low bit to `b`. -/
def pushBit (q : Word) (b : Bool) : Word := if b then (q <<< 1) ||| 1 else q <<< 1

theorem getLsbD_pushBit_zero (q : Word) (b : Bool) : (pushBit q b).getLsbD 0 = b := by
  cases b <;> simp [pushBit]

theorem getLsbD_pushBit_succ (q : Word) (b : Bool) (i : Nat) :
    (pushBit q b).getLsbD (i + 1) = (decide (i + 1 < 64) && q.getLsbD i) := by
  cases b <;> simp [pushBit]

/-- Pushing a bit is x * q + b, as long as the shift loses no bit. -/
theorem toPoly_pushBit {q : Word} (hq : q.getLsbD 63 = false) (b : Bool) :
    toPoly (pushBit q b) = X * toPoly q + if b then 1 else 0 := by
  ext j
  rw [coeff_add, coeff_toPoly]
  cases j with
  | zero => rw [getLsbD_pushBit_zero, mul_coeff_zero, coeff_X_zero, zero_mul, zero_add]; cases b <;> simp
  | succ i =>
    have hconst : (if b then 1 else 0 : (ZMod 2)[X]).coeff (i + 1) = 0 := by cases b <;> simp [coeff_one]
    have hbit : (decide (i + 1 < 64) && q.getLsbD i) = q.getLsbD i := by
      obtain hi | rfl | hi : i + 1 < 64 ∨ i = 63 ∨ 64 ≤ i := by omega
      · rw [decide_eq_true hi, Bool.true_and]
      · rw [hq, Bool.and_false]
      · rw [BitVec.getLsbD_of_ge q i hi, Bool.and_false]
    rw [getLsbD_pushBit_succ, hbit, coeff_X_mul, coeff_toPoly, hconst, add_zero]

/-- x^63 has the window that R111 starts from: high = 1 … -/
theorem getLsbD_keyStart_top : keyStart.getLsbD 63 = true := by decide

/-- … and low = 0. -/
theorem keyStart_shiftLeft_one : keyStart <<< 1 = 0 := by decide

theorem muRemainder_succ (p : Word) (k : Nat) : muRemainder p (k + 1) = mulXMod (muRemainder p k) p :=
  Function.iterate_succ_apply' ..

/-- An iteration of R111 on the window of the remainder `r`: the next window is that of MulXMod `r`. -/
theorem muDivide_succ_eq_mulXMod (p : Word) (k : Nat) (r q : Word) :
    muDivide p (k + 1) (r.getLsbD 63) (r <<< 1) q =
      muDivide p k ((mulXMod r p).getLsbD 63) (mulXMod r p <<< 1) (pushBit q (r.getLsbD 63)) := by
  rw [muDivide_succ, mulXMod_eq_ite, pushBit]

/-- The last of `k + 1` iterations pushes the top bit of the remainder that the first `k` leave. -/
theorem muDivide_succ_eq_pushBit (p : Word) (k : Nat) (r q : Word) :
    muDivide p (k + 1) (r.getLsbD 63) (r <<< 1) q =
      pushBit (muDivide p k (r.getLsbD 63) (r <<< 1) q) (((fun n => mulXMod n p)^[k] r).getLsbD 63) := by
  induction k generalizing r q with
  | zero => rfl
  | succ k ih =>
    rw [muDivide_succ_eq_mulXMod, ih, ← muDivide_succ_eq_mulXMod, ← Function.iterate_succ_apply (fun n => mulXMod n p)]

theorem muQuotient_succ (p : Word) (k : Nat) :
    muQuotient p (k + 1) = pushBit (muQuotient p k) ((muRemainder p k).getLsbD 63) := by
  have h := muDivide_succ_eq_pushBit p k keyStart 0
  rw [getLsbD_keyStart_top, keyStart_shiftLeft_one] at h
  exact h

theorem rev64_muGen (p : Word) : rev64 (muGen p) = muQuotient p 64 := rev64_rev64 _

/-- Settles O30: before iteration `k` the window is that of `muRemainder`, and MulXMod's two cases are those of R111. -/
theorem muDividesSixtyFourSteps : Obligations.MuDividesSixtyFourSteps := by
  intro s
  refine ⟨fun k => (muRemainder s.latPoly k).getLsbD 63, fun k => muRemainder s.latPoly k <<< 1, muQuotient s.latPoly,
    getLsbD_keyStart_top, keyStart_shiftLeft_one, rfl, fun k _ => ⟨muQuotient_succ .., ?_, ?_⟩, rfl⟩
  all_goals simp only [muRemainder_succ, mulXMod_eq_ite]

/-- The first quotient bit, the top bit of x^63, is 1 and each later push moves it up by one (R112). -/
theorem getLsbD_muQuotient_succ (p : Word) {k : Nat} (hk : k < 64) : (muQuotient p (k + 1)).getLsbD k = true := by
  induction k with
  | zero => rw [muQuotient_succ, getLsbD_pushBit_zero]; exact getLsbD_keyStart_top
  | succ k ih => rw [muQuotient_succ, getLsbD_pushBit_succ, decide_eq_true hk, ih (by omega), Bool.true_and]

theorem getLsbD_muGen_zero (p : Word) : (muGen p).getLsbD 0 = true :=
  (getLsbD_rev64_of_lt (by decide) _).trans (getLsbD_muQuotient_succ p (by decide))

/-- Settles O39: RESULT is MuGen of lat.POLY. -/
theorem muResultOdd : Obligations.MuResultOdd :=
  fun s => ⟨_, rfl, getLsbD_muGen_zero s.latPoly⟩

/-- `k` iterations give a quotient of at most `k` bits. -/
theorem getLsbD_muQuotient_of_le (p : Word) {k i : Nat} (hki : k ≤ i) : (muQuotient p k).getLsbD i = false := by
  induction k generalizing i with
  | zero => exact BitVec.getLsbD_zero
  | succ k ih =>
    obtain ⟨i, rfl⟩ : ∃ j, i = j + 1 := ⟨i - 1, by omega⟩
    rw [muQuotient_succ, getLsbD_pushBit_succ, ih (by omega), Bool.and_false]

theorem toPoly_keyStart : toPoly keyStart = X ^ 63 := by
  ext j
  have hbit : keyStart.getLsbD j = decide (63 = j) := BitVec.getLsbD_twoPow 63 j
  simp [hbit, coeff_X_pow, eq_comm]

/-- Long division, invariant: after `k` iterations the dividend brought down so far is quotient * P + remainder (R113). -/
theorem X_pow_eq_muQuotient_mul_add (p : Word) {k : Nat} (hk : k ≤ 64) :
    X ^ (63 + k) = toPoly (muQuotient p k) * genPoly p + toPoly (muRemainder p k) := by
  induction k with
  | zero =>
    have hquotient : toPoly (muQuotient p 0) = 0 := toPoly_zero
    have hremainder : toPoly (muRemainder p 0) = X ^ 63 := toPoly_keyStart
    rw [hquotient, hremainder, zero_mul, zero_add, add_zero]
  | succ k ih =>
    have hstep := X_mul_toPoly_eq_mulXMod (muRemainder p k) p
    rw [← add_assoc, pow_succ', ih (by omega), mul_add, hstep, muQuotient_succ,
      toPoly_pushBit (getLsbD_muQuotient_of_le p (by omega)), muRemainder_succ]
    split <;> ring

/-- Settles O40: the last remainder has degree below 64, so the quotient is that of the division by P. -/
theorem muClosedForm : Obligations.MuClosedForm := by
  intro p
  have hdivision : toPoly (muRemainder p 64) + genPoly p * toPoly (muQuotient p 64) = X ^ 127 := by
    rw [X_pow_eq_muQuotient_mul_add p le_rfl, add_comm, mul_comm]
  have hdegree : (toPoly (muRemainder p 64)).degree < (genPoly p).degree := by
    rw [degree_genPoly]
    exact degree_toPoly_lt _
  rw [rev64_muGen]
  exact (div_modByMonic_unique _ _ (genPoly_monic p) ⟨hdivision, hdegree⟩).1.symm

end Sys2Proof.Laws
end

section
/-! PROOFS. The exponent reducer (43_key_reducer.md): KEY completes with the loop of R122, whose first step takes x^63 to p, and whose
residue modulo P gives the closed form of R123. -/

namespace Sys2Proof.Laws

open Machine Polynomial

/-- KEY's completion by the loop of R122: the two methods are one function (R126). -/
theorem exec_key (s : State) : exec .key s = .next (completeWith (keyGen s.latOpnd s.latPoly) s) := by
  rw [← keyGenFast_eq_keyGen]
  rfl

theorem keyGen_of_le {e : Word} (he : e.toNat ≤ 64) (p : Word) : keyGen e p = 0 := if_pos he

theorem keyGen_of_lt {e : Word} (he : 64 < e.toNat) (p : Word) :
    keyGen e p = rev64 ((fun n => mulXMod n p)^[e.toNat - 64] keyStart) := if_neg (Nat.not_le.mpr he)

/-- The mask of R121 is all ones or all zeros. -/
theorem mulXMod_eq_xor_mask (n p : Word) :
    mulXMod n p = (n <<< 1) ^^^ ((if n.getLsbD 63 then 0xFFFFFFFFFFFFFFFF else 0) &&& p) := by
  have hmask : (0xFFFFFFFFFFFFFFFF : Word) = BitVec.allOnes 64 := rfl
  rw [mulXMod_eq_ite]
  split
  · rw [hmask, BitVec.allOnes_and]
  · rw [BitVec.ofNat_eq_ofNat, BitVec.zero_and, BitVec.xor_zero]

/-- Settles O31: each step of KeyGen's loop is R121 with its mask written out, and the rest is the common end of every completion. -/
theorem keyRunsExponentSteps : Obligations.KeyRunsExponentSteps := by
  intro s
  rw [exec_key]
  simp only [← mulXMod_eq_xor_mask]
  rfl

/-- Settles O42: KeyGen's short circuit. -/
theorem keyShortCircuit : Obligations.KeyShortCircuit :=
  fun s he => ⟨_, exec_key s, keyGen_of_le he s.latPoly⟩

/-- x * x^63 is x^64, which is p modulo P. -/
theorem mulXMod_keyStart (p : Word) : mulXMod keyStart p = p := by
  rw [mulXMod_eq_ite, if_pos getLsbD_keyStart_top, keyStart_shiftLeft_one]
  exact BitVec.zero_xor

theorem mulXMod_zero (p : Word) : mulXMod 0#64 p = 0#64 := by
  rw [mulXMod_eq_ite, BitVec.getLsbD_zero, if_neg Bool.false_ne_true, BitVec.zero_shiftLeft]

/-- The loop of R122 with its first step taken. -/
theorem keyGen_eq_rev64_iterate {e : Word} (he : 64 < e.toNat) (p : Word) :
    keyGen e p = rev64 ((fun n => mulXMod n p)^[e.toNat - 65] p) := by
  have hsteps : e.toNat - 64 = (e.toNat - 65) + 1 := by omega
  rw [keyGen_of_lt he, hsteps, Function.iterate_succ_apply, mulXMod_keyStart]

theorem keyGen_sixtyFive (p : Word) : keyGen 65 p = rev64 p := keyGen_eq_rev64_iterate (by decide) p

/-- For p = 0 the first step clears the register, and the later ones keep it clear. -/
theorem keyGen_zero_right (e : Word) : keyGen e 0#64 = 0#64 := by
  obtain he | he := Nat.lt_or_ge 64 e.toNat
  · have hfixed : Function.IsFixedPt (fun n => mulXMod n 0#64) 0#64 := mulXMod_zero 0#64
    rw [keyGen_eq_rev64_iterate he, hfixed.iterate, rev64_zero]
  · exact keyGen_of_le he 0#64

/-- Settles O43: after its first step the loop stands at p; e = 65 takes no further step, and 0 stays 0. -/
theorem keyCornerCases : Obligations.KeyCornerCases := by
  refine fun s => ⟨fun he => ⟨_, exec_key s, ?_⟩, fun hp => ⟨_, exec_key s, ?_⟩⟩
  · rw [he]
    exact keyGen_sixtyFive s.latPoly
  · rw [hp]
    exact keyGen_zero_right s.latOpnd

/-- A word in the class of `f` modulo P is the remainder of `f`: its degree is below that of P. -/
theorem toPoly_eq_modByMonic {p w : Word} {f : (ZMod 2)[X]} (h : AdjoinRoot.mk (genPoly p) f = residue p w) :
    toPoly w = f %ₘ genPoly p := by
  have hdegree : (toPoly w).degree < (genPoly p).degree := by
    rw [degree_genPoly]
    exact degree_toPoly_lt w
  rw [modByMonic_eq_of_dvd_sub (genPoly_monic p) (AdjoinRoot.mk_eq_mk.mp h),
    (modByMonic_eq_self_iff (genPoly_monic p)).mpr hdegree]

/-- Settles O41: e - 64 multiplications by x take x^63 to the class of x^(e-1). -/
theorem keyClosedForm : Obligations.KeyClosedForm := by
  intro e p he
  have hpower : e.toNat - 1 = (e.toNat - 64) + 63 := by omega
  rw [keyGen_of_lt he, rev64_rev64]
  refine toPoly_eq_modByMonic ?_
  rw [residue_iterate_mulXMod, residue_keyStart, map_pow, AdjoinRoot.mk_X, hpower, pow_add]

end Sys2Proof.Laws
end

section
/-! PROOFS. The reciprocal-polynomial engine (44_reciprocal.md): the bits of RecipGen, which pushes a 1 into the reversed input, and
their reading as the coefficients of P from the top end. -/

namespace Sys2Proof.Laws

open Machine Polynomial

/-- The shift and the OR of R131 push a 1 as the low bit. -/
theorem recipGen_eq_pushBit (p : Word) : recipGen p = pushBit (rev64 p) true := rfl

theorem getLsbD_recipGen_zero (p : Word) : (recipGen p).getLsbD 0 = true := by
  rw [recipGen_eq_pushBit, getLsbD_pushBit_zero]

/-- R131: the shift moves the mirrored index 63 - (j - 1) to 64 - j. -/
theorem getLsbD_recipGen_of_pos (p : Word) {j : Nat} (hpos : 1 ≤ j) (hj : j < 64) :
    (recipGen p).getLsbD j = p.getLsbD (64 - j) := by
  obtain ⟨i, rfl⟩ := Nat.exists_eq_add_of_le' hpos
  have hmirror : 63 - i = 64 - (i + 1) := by omega
  rw [recipGen_eq_pushBit, getLsbD_pushBit_succ, decide_eq_true hj, Bool.true_and,
    getLsbD_rev64_of_lt (by omega), hmirror]

/-- Settles O32: RESULT is RecipGen of lat.POLY, and the rest is the common end of every completion. -/
theorem recipReversesShifts : Obligations.RecipReversesShifts :=
  fun s => ⟨recipGen s.latPoly, rfl, getLsbD_recipGen_zero s.latPoly,
    fun _ hpos hj => getLsbD_recipGen_of_pos s.latPoly hpos (by omega), rfl⟩

/-- The leading coefficient of P = x^64 + p comes from the x^64 alone. -/
theorem coeff_genPoly_top (p : Word) : (genPoly p).coeff 64 = 1 := by
  rw [genPoly, coeff_add, coeff_X_pow_self, coeff_toPoly, BitVec.getLsbD_of_ge p 64 le_rfl, if_neg Bool.false_ne_true, add_zero]

/-- Below x^64 the coefficients of P are those of p. -/
theorem coeff_genPoly_of_lt (p : Word) {i : Nat} (hi : i < 64) : (genPoly p).coeff i = (toPoly p).coeff i := by
  rw [genPoly, coeff_add, coeff_X_pow, if_neg hi.ne, zero_add]

/-- Settles O44: bit 0 stands for the leading coefficient of P, and every other bit for a coefficient of p. -/
theorem recipReversesPolynomial : Obligations.RecipReversesPolynomial := by
  intro p j hj
  obtain rfl | hpos := Nat.eq_zero_or_pos j
  · rw [coeff_toPoly, getLsbD_recipGen_zero, if_pos rfl, Nat.sub_zero, coeff_genPoly_top]
  · rw [coeff_genPoly_of_lt p (by omega), coeff_toPoly, coeff_toPoly, getLsbD_recipGen_of_pos p hpos hj]

end Sys2Proof.Laws
end

section
/-! PROOFS. The constant-set sequencer (45_constant_set.md): CSET's completion, and that each of its 18 values is the RESULT of the
single command for it. -/

namespace Sys2Proof.Laws

open Machine

/-- R140: the completion of CSET changes the 18 registers of the constant set together. -/
theorem exec_cset (s : State) :
    exec .cset s =
      .next (complete { s with keyr := keySet s.latPoly, muR := muGen s.latPoly, recipR := recipGen s.latPoly }) := rfl

/-- R110: MU's completion. -/
theorem exec_mu (s : State) : exec .mu s = .next (completeWith (muGen s.latPoly) s) := rfl

/-- R130: RECIP's completion. -/
theorem exec_recip (s : State) : exec .recip s = .next (completeWith (recipGen s.latPoly) s) := rfl

/-- Key `i` of a constant set is the key of the exponent that EXPR[i] reads as, in any state (R142). -/
theorem getElem_keySet_eq_keyGen_expr (p : Word) (i : Fin 16) (v : State) :
    (keySet p)[i] = keyGen (readReg (.expr i) v) p := by
  rw [getElem_keySet, (exponentTableFixed v i).1]

/-- Settles O33: the exponents of the table are those of R142's list, and the rest is CSET's completion. -/
theorem csetWritesConstantSet : Obligations.CsetWritesConstantSet :=
  fun s => ⟨keySet s.latPoly, getElem_keySet s.latPoly, exec_cset s⟩

/-- Settles O37: MU and RECIP call CSET's own functions of the same polynomial, and KEY's square and multiply is the loop that CSET
runs on EXPR[i]. -/
theorem csetAgreesWithSingleCommands : Obligations.CsetAgreesWithSingleCommands := by
  intro s u hu
  refine ⟨_, _, _, exec_cset s, exec_mu u, exec_recip u, congrArg muGen hu.symm, congrArg recipGen hu.symm, ?_⟩
  intro i v hpoly hopnd
  refine ⟨_, exec_key v, ?_⟩
  calc (keySet s.latPoly)[i]
      = keyGen (readReg (.expr i) v) s.latPoly := getElem_keySet_eq_keyGen_expr s.latPoly i v
    _ = keyGen v.latOpnd v.latPoly := by rw [hopnd, hpoly]

end Sys2Proof.Laws
end

section
/-! PROOFS. Errors (60_exceptions.md): which error flag an access raises, a CMD write that races a completion, and that nothing stops
the machine. -/

namespace Sys2Proof.Laws

open Machine

/-! ## One access, one error flag -/

/-- `Raises s a c`: in state `s` the access `a` is an error of cause `c` (R151, R154). -/
inductive Raises (s : State) : Access → ErrorCause → Prop
  | illegalRead {off n : Nat} (hlegal : legalReg .read off n = none) : Raises s (.read off n) .accErr
  | illegalWrite {off n : Nat} {v : Word} (hlegal : legalReg .write off n = none) : Raises s (.write off n v) .accErr
  | overrun {w : Word} (hbusy : s.status.busy = true) : Raises s (.write 0x000 8 w) .overrun
  | illegalWord {w : Word} {why : IllegalWord} (hbusy : s.status.busy = false) (hdecode : decode w = .illegal why) :
      Raises s (.write 0x000 8 w) .illegal

/-- An 8-byte write to CMD is no access error (20_memory.md R51). -/
theorem legalReg_write_cmd_ne_none : legalReg .write 0x000 8 ≠ none := by
  have hcmd : legalReg .write 0x000 8 = some .cmd := legalReg_write_iff.mpr ⟨rfl, rfl, rfl⟩
  simp [hcmd]

/-- The order of R154 leaves an access one cause: a CMD write is legal, and BUSY tells OVERRUN from ILLEGAL. -/
theorem Raises.unique {s : State} {a : Access} {c d : ErrorCause} (hc : Raises s a c) (hd : Raises s a d) : c = d := by
  cases hc with
  | illegalRead => cases hd; rfl
  | illegalWrite hlegal =>
    cases hd with
    | illegalWrite => rfl
    | overrun | illegalWord => exact absurd hlegal legalReg_write_cmd_ne_none
  | overrun hbusy =>
    cases hd with
    | illegalWrite hlegal => exact absurd hlegal legalReg_write_cmd_ne_none
    | overrun => rfl
    | illegalWord hidle => rw [hbusy] at hidle; cases hidle
  | illegalWord hidle =>
    cases hd with
    | illegalWrite hlegal => exact absurd hlegal legalReg_write_cmd_ne_none
    | overrun hbusy => rw [hbusy] at hidle; cases hidle
    | illegalWord => rfl

/-- Flagging an error sets the flag of its cause and no other (R156). -/
theorem errorFlag_flag_iff (c d : ErrorCause) (st : Status) :
    errorFlag c (st.flag d) = true ↔ errorFlag c st = true ∨ c = d := by
  cases c <;> cases d <;> simp [errorFlag]

/-- An access sets the flag of the cause that it raises. -/
theorem Raises.errorFlag_busAccess {s : State} {a : Access} {c : ErrorCause} (h : Raises s a c) :
    errorFlag c (busAccess a s).1.status = true := by
  cases h with
  | illegalRead hlegal => rw [busAccess, busRead_of_illegal hlegal]; rfl
  | illegalWrite hlegal => rw [busAccess, busWrite_of_illegal hlegal]; rfl
  | overrun hbusy => rw [busAccess, busWrite_cmd, cmdWrite_of_busy hbusy]; rfl
  | illegalWord hbusy hdecode => rw [busAccess, busWrite_cmd, cmdWrite_of_illegal hbusy hdecode]; rfl

/-- Once the cause that an access raises is flagged, a set flag is an old one or that of the cause. -/
theorem errorFlag_of_flag {s : State} {a : Access} {c d : ErrorCause} (hraise : Raises s a d)
    (h : errorFlag c (s.status.flag d) = true) : errorFlag c s.status = true ∨ Raises s a c := by
  obtain hset | rfl := (errorFlag_flag_iff c d s.status).mp h
  · exact .inl hset
  · exact .inr hraise

/-- A CMD write leaves a flag set that it does not raise only where the flag was set before (40_command_control.md R90). -/
theorem errorFlag_cmdWrite {s : State} {w : Word} {c : ErrorCause}
    (h : errorFlag c (cmdWrite w s).status = true) :
    errorFlag c s.status = true ∨ Raises s (.write 0x000 8 w) c := by
  obtain ⟨hbusy, e⟩ | ⟨-, -, e⟩ | ⟨hbusy, ⟨why, hdecode⟩, e⟩ := cmdWrite_cases w s <;> rw [e] at h
  · exact errorFlag_of_flag (.overrun hbusy) h
  · exact .inl (by cases c <;> exact h)
  · have hflag : errorFlag c (s.status.flag .illegal) = true := by cases c <;> exact h
    exact errorFlag_of_flag (.illegalWord hbusy hdecode) hflag

/-- An error flag is set after an access only if it was set before or the access raises it (R151). -/
theorem errorFlag_busAccess {s : State} {a : Access} {c : ErrorCause}
    (h : errorFlag c (busAccess a s).1.status = true) : errorFlag c s.status = true ∨ Raises s a c := by
  obtain ⟨r, rfl, e⟩ | ⟨off, n, rfl, hlegal, e⟩ | ⟨off, n, v, rfl, hlegal, e⟩ | ⟨w, rfl, e⟩ | ⟨v, rfl, e⟩ | ⟨v, rfl, e⟩ |
    ⟨v, rfl, e⟩ := busAccess_cases a s <;> rw [e] at h
  · exact .inl h
  · exact errorFlag_of_flag (.illegalRead hlegal) h
  · exact errorFlag_of_flag (.illegalWrite hlegal) h
  · exact errorFlag_cmdWrite h
  · rw [statusWrite_status, errorFlag_clearOnes] at h
    exact .inl (Bool.and_eq_true_iff.mp h).1
  · exact .inl h
  · exact .inl h

/-- `a` turns the flag of `c` on: it was clear before the access and is set after it. -/
def FlagRises (c : ErrorCause) (s : State) (a : Access) : Prop :=
  errorFlag c s.status = false ∧ errorFlag c (busAccess a s).1.status = true

/-- R154: the flag that an access turns on is that of its cause. -/
theorem flagRises_iff {c : ErrorCause} {s : State} {a : Access} :
    FlagRises c s a ↔ errorFlag c s.status = false ∧ Raises s a c :=
  and_congr_right fun hclear =>
    ⟨fun hset => (errorFlag_busAccess hset).resolve_left (by simp [hclear]), Raises.errorFlag_busAccess⟩

/-- No access turns on the flags of two causes. -/
theorem not_flagRises_and_flagRises {c d : ErrorCause} (hcd : c ≠ d) (s : State) (a : Access) :
    ¬ (FlagRises c s a ∧ FlagRises d s a) :=
  fun ⟨hc, hd⟩ => hcd ((flagRises_iff.mp hc).2.unique (flagRises_iff.mp hd).2)

theorem raises_accErr_iff {s : State} {a : Access} :
    Raises s a .accErr ↔ (∃ off n, a = .read off n ∧ legalReg .read off n = none) ∨
      ∃ off n v, a = .write off n v ∧ legalReg .write off n = none := by
  constructor
  · intro h
    cases h with
    | illegalRead hlegal => exact .inl ⟨_, _, rfl, hlegal⟩
    | illegalWrite hlegal => exact .inr ⟨_, _, _, rfl, hlegal⟩
  · rintro (⟨off, n, rfl, hlegal⟩ | ⟨off, n, v, rfl, hlegal⟩)
    · exact .illegalRead hlegal
    · exact .illegalWrite hlegal

theorem raises_overrun_iff {s : State} {a : Access} :
    Raises s a .overrun ↔ s.status.busy = true ∧ ∃ w, a = .write 0x000 8 w := by
  constructor
  · intro h
    cases h with
    | overrun hbusy => exact ⟨hbusy, _, rfl⟩
  · rintro ⟨hbusy, w, rfl⟩
    exact .overrun hbusy

theorem raises_illegal_iff {s : State} {a : Access} :
    Raises s a .illegal ↔
      s.status.busy = false ∧ ∃ w why, a = .write 0x000 8 w ∧ decode w = .illegal why := by
  constructor
  · intro h
    cases h with
    | illegalWord hbusy hdecode => exact ⟨hbusy, _, _, rfl, hdecode⟩
  · rintro ⟨hbusy, w, why, rfl, hdecode⟩
    exact .illegalWord hbusy hdecode

/-- Settles O19: the flag that an access turns on is that of its cause, and it has at most one. -/
theorem oneErrorFlagPerAccess : Obligations.OneErrorFlagPerAccess := by
  rintro s a _ rfl
  exact ⟨flagRises_iff.trans (and_congr_right fun _ => raises_accErr_iff),
    flagRises_iff.trans (and_congr_right fun _ => raises_overrun_iff),
    flagRises_iff.trans (and_congr_right fun _ => raises_illegal_iff),
    not_flagRises_and_flagRises (c := .accErr) (d := .overrun) (by decide) s a,
    not_flagRises_and_flagRises (c := .accErr) (d := .illegal) (by decide) s a,
    not_flagRises_and_flagRises (c := .overrun) (d := .illegal) (by decide) s a⟩

/-! ## A CMD write that races a completion -/

section
variable {s : State} {w : Word} {rest : List Stmt} {later : List Turn} {i : Instr}

/-- The host's step at a write to CMD (30_encoding.md R76, R78). -/
theorem step_cmdWrite (hturn : nextTurn s = .host) (hprog : s.program = .wr 8 (.reg .cmd) (.lit w) :: rest) :
    step s = .next { cmdWrite w (dropTurn s) with program := rest } := by
  rw [step_of_host hturn, hostTurn_wr (s := dropTurn s) hprog, ← busWrite_cmd]
  rfl

/-- While BUSY = 0 a CMD write leaves OVERRUN (40_command_control.md R91, R92). -/
theorem cmdWrite_overrun_of_idle (hbusy : s.status.busy = false) (w : Word) :
    (cmdWrite w s).status.overrun = s.status.overrun := by
  obtain ⟨hb, -⟩ | ⟨-, -, e⟩ | ⟨-, -, e⟩ := cmdWrite_cases w s
  · rw [hbusy] at hb; cases hb
  · rw [e]; rfl
  · rw [e]; rfl

/-- An engine turn with a command in flight completes it; the operands and the host's program stay (R93). -/
theorem exists_step_completion (hturn : nextTurn s = .engine) (hbusy : s.status.busy = true)
    (hop : decodeOp s.latOp = some i) :
    ∃ t, step s = .next t ∧ t.status = s.status.complete ∧ t.latOp = s.latOp ∧ t.poly = s.poly ∧
      t.operand = s.operand ∧ t.program = s.program ∧ t.schedule = s.schedule.tail := by
  obtain ⟨t, ht⟩ := exec_next i (dropTurn s)
  obtain ⟨hpoly, hoperand, hlatOp, -, -, hstatus, hprog, -, hsched, -, -⟩ := commandsFrame i _ t ht
  exact ⟨t, (step_of_engine hturn hbusy hop).trans ht, hstatus, hlatOp, hpoly, hoperand, hprog, hsched⟩

/-- R155, the write before the completion: OVERRUN, and then the completion of the command in flight. -/
theorem run_cmdWrite_completion (hbusy : s.status.busy = true) (hop : decodeOp s.latOp = some i)
    (hprog : s.program = .wr 8 (.reg .cmd) (.lit w) :: rest) (hsched : s.schedule = .host :: .engine :: later) :
    ∃ t : State, core.run 2 s = .next t ∧ t.status = (s.status.flag .overrun).complete ∧ t.latOp = s.latOp := by
  have hwrite := step_cmdWrite (by rw [nextTurn, hsched]) hprog
  rw [cmdWrite_of_busy (s := dropTurn s) hbusy] at hwrite
  obtain ⟨t, hcomplete, hstatus, hlatOp, -⟩ :=
    exists_step_completion (s := { (dropTurn s).flag .overrun with program := rest }) (by simp [nextTurn, hsched])
      hbusy hop
  exact ⟨t, (run_succ_of_step 1 hwrite).trans (run_succ_of_step 0 hcomplete), hstatus, hlatOp⟩

/-- R155, the completion before the write: the write meets a state `u` in which the command in flight has completed. -/
theorem run_completion_cmdWrite (hbusy : s.status.busy = true) (hop : decodeOp s.latOp = some i)
    (hprog : s.program = .wr 8 (.reg .cmd) (.lit w) :: rest) (hsched : s.schedule = .engine :: .host :: later) :
    ∃ u : State, core.run 2 s = .next { cmdWrite w u with program := rest } ∧
      u.status = s.status.complete ∧ u.poly = s.poly ∧ u.operand = s.operand := by
  obtain ⟨u, hcomplete, hstatus, -, hpoly, hoperand, huprog, husched⟩ :=
    exists_step_completion (by rw [nextTurn, hsched]) hbusy hop
  have hwrite := step_cmdWrite (by rw [nextTurn, husched, hsched, List.tail_cons]) (huprog.trans hprog)
  exact ⟨dropTurn u, (run_succ_of_step 1 hcomplete).trans (run_succ_of_step 0 hwrite), hstatus, hpoly, hoperand⟩

end

/-- Settles O52: the write meets BUSY = 1 in the one order, and BUSY = 0 with the operands unchanged in the other. -/
theorem raceAdmitsBothOrders : Obligations.RaceAdmitsBothOrders := by
  intro s w rest later i hbusy hop hprog
  constructor
  · intro hsched
    obtain ⟨t, hrun, hstatus, hlatOp⟩ := run_cmdWrite_completion hbusy hop hprog hsched
    exact ⟨t, hrun, by simp [hstatus], by simp [hstatus], by simp [hstatus], by simp [hstatus], hlatOp,
      by simp [hstatus]⟩
  · intro hsched
    obtain ⟨u, hrun, hstatus, hpoly, hoperand⟩ := run_completion_cmdWrite hbusy hop hprog hsched
    have hidle : u.status.busy = false := by simp [hstatus]
    refine ⟨_, hrun, ?_, fun j hdecode => ?_, fun why hdecode => ?_⟩
    · exact (cmdWrite_overrun_of_idle hidle w).trans (by simp [hstatus])
    · have hopcode : opField w = j.opcode := by rw [decode_eq_command_iff.mp hdecode, opField_encode]
      rw [cmdWrite_of_command hidle hdecode]
      exact ⟨rfl, rfl, hopcode, hopcode, hpoly, hoperand⟩
    · rw [cmdWrite_of_illegal hidle hdecode]
      exact ⟨hidle, rfl, rfl⟩

/-! ## Nothing stops the machine -/

/-- A step goes on, or it is the engine's with a command in flight that lat.OP does not name (40_command_control.md R93). -/
theorem step_next_or_fault (s : State) :
    (∃ t, step s = .next t) ∨
      (nextTurn s = .engine ∧ s.status.busy = true ∧ decodeOp s.latOp = none ∧
        step s = .fault (.latchHoldsNoCommand s.latOp)) := by
  cases hturn : nextTurn s with
  | host => exact .inl ⟨_, step_of_host hturn⟩
  | reset => exact .inl ⟨_, step_of_reset hturn⟩
  | engine =>
    cases hbusy : s.status.busy with
    | false => exact .inl ⟨_, engineIdleWithoutCommand s hturn hbusy⟩
    | true =>
      cases hop : decodeOp s.latOp with
      | some i => exact .inl ((exec_next i (dropTurn s)).imp fun _ => (step_of_engine hturn hbusy hop).trans)
      | none =>
        refine .inr ⟨rfl, rfl, rfl, ?_⟩
        rw [step, hturn]
        simp [takeTurn, engineTurn, hbusy, hop]

/-- The opcodes without a command are 0x6 to 0xF (30_encoding.md R74). -/
theorem decodeOp_eq_none_iff {op : BitVec 4} : decodeOp op = none ↔ 6 ≤ op.toNat := by
  rw [Option.eq_none_iff_forall_ne_some, ← not_exists, decodeOp_isSome_iff, Nat.not_le, Nat.lt_iff_add_one_le]

/-- A state of the invariant steps to a state of the invariant (R150). -/
theorem Inv.exists_step {s : State} (hinv : Inv s) : ∃ t, step s = .next t ∧ Inv t := by
  obtain ⟨t, hstep⟩ | ⟨-, -, hnone, -⟩ := step_next_or_fault s
  · exact ⟨t, hstep, stepKeepsInv s t hinv hstep⟩
  · exact absurd hinv.latch_command (Nat.not_le.mpr (decodeOp_eq_none_iff.mp hnone))

/-- Settles O55: the invariant's steps go on within it, and a step that does not go on is the one fault. -/
theorem nothingStopsTheMachine : Obligations.NothingStopsTheMachine := by
  refine ⟨fun s n hinv => ?_, fun s f hfault => ?_, fun s r hrefused => ?_⟩
  · obtain ⟨t, hrun, -⟩ := run_of_invariant (fun _ => Inv.exists_step) n s hinv
    exact ⟨t, hrun⟩
  · obtain ⟨t, hstep⟩ | ⟨hturn, hbusy, hnone, -⟩ := step_next_or_fault s
    · rw [hstep] at hfault; cases hfault
    · exact ⟨hturn, hbusy, decodeOp_eq_none_iff.mp hnone⟩
  · obtain ⟨t, hstep⟩ | ⟨-, -, -, hstep⟩ := step_next_or_fault s
    · rw [hstep] at hrefused; cases hrefused
    · rw [hstep] at hrefused; cases hrefused

end Sys2Proof.Laws
end

section
/-! PROOFS. Reset and hazards (70_reset_and_hazards.md): the state after reset, what tells it from a constant set, and the completion
check. -/

namespace Sys2Proof.Laws

open Machine

/-! ## Reset -/

/-- STATUS as a whole after reset (R171). -/
theorem word_reset : Status.reset.word = 0 := by decide

/-- Settles O50: a read of EXPR does not look at the state, and every other register is read as 0. -/
theorem resetStateValues : Obligations.ResetStateValues := by
  refine ⟨fun r => ?_, rfl, rfl, rfl⟩
  cases r with
  | expr i => exact getElem_exponents i
  | status => exact word_reset
  | keyr i => simp [readReg]
  | cmd | poly | operand | result | muR | recipR => rfl

/-- Every register reads after a reset as in the reset state (R171). -/
theorem readReg_resetTurn (r : Reg) (s : State) : readReg r (resetTurn s) = readReg r State.reset := by
  cases r <;> rfl

/-- Settles O49: the step at a reset turn is `resetTurn`, which looks at the host's own fields only. -/
theorem resetTurnResetsEverything : Obligations.ResetTurnResetsEverything := by
  intro s hturn
  obtain ⟨hreset, -⟩ := resetStateValues
  have hread r := (readReg_resetTurn r (dropTurn s)).trans (hreset r)
  exact ⟨_, step_of_reset hturn, rfl, rfl, rfl, rfl, rfl, rfl, hread .status, rfl, rfl, rfl, rfl, rfl,
    fun i => hread (.keyr i), fun i => hread (.expr i), rfl, rfl, rfl, rfl, rfl, rfl⟩

/-- Settles O53: BUSY is 0, lat.OP and LASTOP are both 0, and the constant-set registers are those of reset. -/
theorem invHoldsAtReset : Obligations.InvHoldsAtReset :=
  ⟨by simp, by simp, rfl, .inl ⟨rfl, rfl, rfl⟩⟩

/-! ## Reset told apart from a constant set -/

/-- A word with bit 0 set is not 0. -/
theorem ne_zero_of_getLsbD_zero {v : Word} (h : v.getLsbD 0 = true) : v ≠ 0 := by
  rintro rfl
  cases h

/-- The registers of a constant set are never those of reset, for MU and RECIP give odd words (R173). -/
theorem constantSetOf_ne_zero {p : Word} {s : State} (hset : ConstantSetOf p s) : s.muR ≠ 0 ∧ s.recipR ≠ 0 := by
  obtain ⟨hmu, hrecip, -⟩ := hset
  exact ⟨hmu ▸ ne_zero_of_getLsbD_zero (getLsbD_muGen_zero p),
    hrecip ▸ ne_zero_of_getLsbD_zero (getLsbD_recipGen_zero p)⟩

/-- Settles O59: the invariant leaves reset or a constant set, and the odd words of a constant set rule the latter out. -/
theorem resetSetToldApart : Obligations.ResetSetToldApart := by
  refine ⟨fun s hinv hzero => ?_, fun s => ⟨_, rfl, getLsbD_muGen_zero _, getLsbD_recipGen_zero _⟩⟩
  obtain hreset | ⟨p, hset⟩ := hinv.constant_set
  · exact hreset
  · obtain ⟨hmu, hrecip⟩ := constantSetOf_ne_zero hset
    exact (hzero.elim hmu hrecip).elim

/-! ## The completion check -/

/-- No turn to come is a reset. -/
def ResetFree (s : State) : Prop := ∀ turn ∈ s.schedule, turn ≠ .reset

theorem ResetFree.tail {s t : State} (h : ResetFree s) (ht : t.schedule = s.schedule.tail) : ResetFree t :=
  fun turn hturn => h turn (List.mem_of_mem_tail (ht ▸ hturn))

theorem ResetFree.nextTurn_ne_reset {s : State} (h : ResetFree s) : nextTurn s ≠ .reset := by
  unfold nextTurn
  split
  · next turn _ hsched => exact h turn (hsched ▸ List.mem_cons_self)
  · split <;> decide

/-- With no command in flight the host moves at last: each turn before its own is the engine's, and is spent (10_state.md R21). -/
theorem run_idle_to_hostTurn {s : State} (hidle : s.status.busy = false) (hfree : ResetFree s) :
    ∃ k later, ResetFree { s with schedule := later } ∧ core.run k s = .next (hostTurn { s with schedule := later }) := by
  induction hsched : s.schedule generalizing s with
  | nil => exact ⟨1, s.schedule.tail, hfree.tail rfl, run_succ_of_step 0 (step_of_host (by simp [nextTurn, hsched, hidle]))⟩
  | cons turn later ih =>
    cases turn with
    | host => exact ⟨1, s.schedule.tail, hfree.tail rfl, run_succ_of_step 0 (step_of_host (by rw [nextTurn, hsched]))⟩
    | engine =>
      have hstep := engineIdleWithoutCommand s (by rw [nextTurn, hsched]) hidle
      obtain ⟨k, final, hfinal, hrun⟩ := ih (s := dropTurn s) hidle (hfree.tail rfl) (by simp [hsched])
      exact ⟨k + 1, final, hfinal, (run_succ_of_step k hstep).trans hrun⟩
    | reset => exact absurd rfl (hfree .reset (by simp [hsched]))

/-- The exit test of WAIT is BUSY = 0 (30_encoding.md R78). -/
theorem word_and_one_eq_zero_iff (st : Status) : st.word &&& 0x1 = 0x0 ↔ st.busy = false := by
  constructor
  · intro h
    simpa [BitVec.getLsbD_and] using congrArg (BitVec.getLsbD · 0) h
  · intro h
    apply BitVec.eq_of_getLsbD_eq
    intro i _
    by_cases hi : i = 0
    · simp [hi, h]
    · simp [BitVec.getLsbD_one, hi]

/-- While BUSY = 1 a turn of WAIT reads STATUS and stays (30_encoding.md R77). -/
theorem hostTurn_wait_of_busy {s : State} {rest : List Stmt} (hprog : s.program = waitStmt :: rest)
    (hbusy : s.status.busy = true) : hostTurn s = s := by
  rw [hostTurn_poll hprog, if_neg]
  rw [readReg, word_and_one_eq_zero_iff, hbusy]
  decide

/-- With no command in flight the host gets past WAIT, and its last read is STATUS as it stands. -/
theorem run_wait_of_idle {s : State} {rest : List Stmt} (hprog : s.program = waitStmt :: rest)
    (hidle : s.status.busy = false) (hfree : ResetFree s) :
    ∃ k t, core.run k s = .next t ∧ t.program = rest ∧
      t.replies = s.replies ++ [{ bytes := 8, data := s.status.word }] := by
  obtain ⟨k, later, -, hrun⟩ := run_idle_to_hostTurn hidle hfree
  rw [hostTurn_poll (s := { s with schedule := later }) hprog, readReg,
    if_pos ((word_and_one_eq_zero_iff s.status).mpr hidle)] at hrun
  exact ⟨k, _, hrun, rfl, rfl⟩

/-- With a command in flight the host gets past WAIT, and its last read is STATUS as the completion leaves it: until then WAIT
stays, and each turn it takes is one of the schedule's (40_command_control.md R99). -/
theorem run_wait_of_busy {s : State} {rest : List Stmt} {i : Instr} (hprog : s.program = waitStmt :: rest)
    (hbusy : s.status.busy = true) (hop : decodeOp s.latOp = some i) (hfree : ResetFree s) :
    ∃ k t, core.run k s = .next t ∧ t.program = rest ∧
      t.replies = s.replies ++ [{ bytes := 8, data := s.status.complete.word }] := by
  cases hturn : nextTurn s with
  | host =>
    have hsched := schedule_of_host hturn hbusy
    have hstep := step_of_host hturn
    rw [hostTurn_wait_of_busy (s := dropTurn s) hprog hbusy] at hstep
    obtain ⟨k, t, hrun, hend⟩ := run_wait_of_busy (s := dropTurn s) hprog hbusy hop (hfree.tail rfl)
    exact ⟨k + 1, t, (run_succ_of_step k hstep).trans hrun, hend⟩
  | engine =>
    obtain ⟨u, hexec⟩ := exec_next i (dropTurn s)
    obtain ⟨hstatus, husched⟩ := exec_status_schedule hexec
    obtain ⟨-, -, -, -, -, -, huprog, hreplies, -⟩ := commandsFrame i _ u hexec
    obtain ⟨k, t, hrun, htprog, htreplies⟩ :=
      run_wait_of_idle (huprog.trans hprog) (by rw [hstatus, status_complete_busy]) (hfree.tail husched)
    rw [hreplies, hstatus] at htreplies
    exact ⟨k + 1, t, (run_succ_of_step k ((step_of_engine hturn hbusy hop).trans hexec)).trans hrun, htprog, htreplies⟩
  | reset => exact absurd hturn hfree.nextTurn_ne_reset
termination_by s.schedule.length
decreasing_by rw [hsched]; simp

/-- What a write of any width to offset 0 does while BUSY = 0 (20_memory.md R52, 40_command_control.md R90). -/
theorem busWrite_cmd_cases {s : State} (hidle : s.status.busy = false) (n : Nat) (w : Word) :
    (n ≠ 8 ∧ busWrite 0x000 n w s = s.flag .accErr) ∨
    (n = 8 ∧ (∃ i, decode w = .command i) ∧ busWrite 0x000 n w s = accept w s) ∨
    (n = 8 ∧ (∃ why, decode w = .illegal why) ∧ busWrite 0x000 n w s = illegalCommand s) := by
  by_cases hn : n = 8
  · subst hn
    rw [busWrite_cmd]
    obtain ⟨hbusy, -⟩ | ⟨-, hdecode, hwrite⟩ | ⟨-, hdecode, hwrite⟩ := cmdWrite_cases w s
    · rw [hidle] at hbusy; cases hbusy
    · exact .inr (.inl ⟨rfl, hdecode, hwrite⟩)
    · exact .inr (.inr ⟨rfl, hdecode, hwrite⟩)
  · have hillegal : legalReg .write 0x000 n = none := by simp [legalReg, hn]
    exact .inl ⟨hn, busWrite_of_illegal hillegal w s⟩

/-- `CheckedStatus n w old st`: of a write of `n` bytes of `w` to CMD that meets STATUS `old` with BUSY = 0, the WAIT after it reads
STATUS `st` last. The three cases of R178. -/
inductive CheckedStatus (n : Nat) (w : Word) (old : Status) : Status → Prop
  /-- R91, R93. -/
  | completed {i : Instr} (hn : n = 8) (hdecode : decode w = .command i) :
      CheckedStatus n w old (old.accept (opField w)).complete
  /-- R92. -/
  | illegalWord {why : IllegalWord} (hn : n = 8) (hdecode : decode w = .illegal why) :
      CheckedStatus n w old { old.flag .illegal with done := false }
  /-- R52. -/
  | illegalAccess (hn : n ≠ 8) : CheckedStatus n w old (old.flag .accErr)

/-- The host gets past a write to CMD and the WAIT after it, and its last read is a STATUS of R178. -/
theorem run_cmdWrite_wait {s : State} {n : Nat} {w : Word} {rest : List Stmt} (hidle : s.status.busy = false)
    (hfree : ResetFree s) (hprog : s.program = .wr n (.reg .cmd) (.lit w) :: waitStmt :: rest) :
    ∃ k t st, core.run k s = .next t ∧ t.program = rest ∧
      t.replies = s.replies ++ [{ bytes := 8, data := Status.word st }] ∧ CheckedStatus n w s.status st := by
  obtain ⟨j, later, hlater, hwrite⟩ := run_idle_to_hostTurn hidle hfree
  rw [hostTurn_wr (s := { s with schedule := later }) hprog] at hwrite
  obtain ⟨hn, e⟩ | ⟨hn, ⟨i, hdecode⟩, e⟩ | ⟨hn, ⟨why, hdecode⟩, e⟩ :=
    busWrite_cmd_cases (s := { s with schedule := later }) hidle n w
  · obtain ⟨k, t, hrun, htprog, htreplies⟩ := run_wait_of_idle
      (s := { State.flag .accErr { s with schedule := later } with program := waitStmt :: rest }) rfl hidle hlater
    exact ⟨j + k, t, _, (run_add j k hwrite).trans (e ▸ hrun), htprog, htreplies, .illegalAccess hn⟩
  · have hop : decodeOp (opField w) = some i := by
      rw [decode_eq_command_iff.mp hdecode, opField_encode, decodeOp_opcode]
    obtain ⟨k, t, hrun, htprog, htreplies⟩ := run_wait_of_busy
      (s := { accept w { s with schedule := later } with program := waitStmt :: rest }) rfl rfl hop hlater
    exact ⟨j + k, t, _, (run_add j k hwrite).trans (e ▸ hrun), htprog, htreplies, .completed hn hdecode⟩
  · obtain ⟨k, t, hrun, htprog, htreplies⟩ := run_wait_of_idle
      (s := { illegalCommand { s with schedule := later } with program := waitStmt :: rest }) rfl hidle hlater
    exact ⟨j + k, t, _, (run_add j k hwrite).trans (e ▸ hrun), htprog, htreplies, .illegalWord hn hdecode⟩

/-- Settles O58: the bits of the last STATUS read, in each case of R178. -/
theorem completionCheck : Obligations.CompletionCheck := by
  intro s n w rest hidle hillegal hoverrun _ hfree hprog
  obtain ⟨k, t, st, hrun, htprog, htreplies, hchecked⟩ := run_cmdWrite_wait hidle hfree hprog
  refine ⟨k, t, _, hrun, htprog, htreplies, ?_⟩
  cases hchecked with
  | completed hn hdecode =>
    have hlastop : (s.status.accept (opField w)).complete.word.extractLsb' 8 4 = w.extractLsb' 0 4 :=
      extractLsb'_word_lastop _
    simp [hillegal, hoverrun, hn, hdecode, hlastop]
  | illegalWord hn hdecode => simp [hidle, hoverrun, hn, hdecode]
  | illegalAccess hn => simp [hidle, hoverrun, hn]

end Sys2Proof.Laws
end
